-- ==== Sys2Proof/Word.lean ====
section
/-! DEFINITION. The widths of the controller: the 16-bit word, the 8-bit byte (00_scope.md R6, R14; 20_memory.md R53).
A host value (00_scope.md R10, R21) is a natural number, the limit R10 allows; WellFormed bounds it by HOST_VALUE_WIDTH, and it
becomes a word only after the range check of 40_wire_codec.md R97. -/

namespace Sys2Proof

/-- A u16 (WORD_BITS = 16, R6). -/
abbrev Word := BitVec 16

/-- A u8 (BYTE_BITS = 8, R6). -/
abbrev Byte := BitVec 8

end Sys2Proof
end

