-- ==== Sys2Proof/Config.lean ====
section
/-! DEFINITION. What one instance of the controller fixes (00_scope.md R6 to R12) and the free values, which the spec
leaves open: they are constants without a body, so no proof can see what they are. -/

namespace Sys2Proof

/-- CMDA_FRAMING (00_scope.md R9): chip-select pulses of a command with arguments. -/
inductive CmdaFraming where
  /-- The command frame and the data frame each have their own chip-select pulse (the default). -/
  | twoFrames
  /-- Chip-select stays asserted across both. -/
  | oneFrame
  deriving DecidableEq, Repr

/-- The parameters a rule of the model depends on (00_scope.md R8 to R11). They are fixed for the lifetime of an
instance (10_state.md R46); log 2 says how the model carries them. -/
structure Params where
  /-- READY_TIMEOUT_POLLS (R8): `none` is NONE, the reference behaviour; `some T` bounds a gate to T failed samples. -/
  readyTimeoutPolls : Option Nat
  /-- CMDA_FRAMING (R9). -/
  cmdaFraming : CmdaFraming
  /-- HOST_VALUE_WIDTH (R10): `none` is its limit, unbounded naturals. -/
  hostValueWidth : Option Nat
  /-- REQ_MAX_WORDS (R11): `none` is UNBOUNDED. -/
  reqMaxWords : Option Nat
  deriving DecidableEq, Repr

/-- The defaults R8, R9 and R11 name; for HOST_VALUE_WIDTH, which has none, the limit R10 allows (log 2). -/
def Params.default : Params :=
  { readyTimeoutPolls := none, cmdaFraming := .twoFrames, hostValueWidth := none, reqMaxWords := none }

/-- F_SCK in hertz (R7, R180): open, at most 24 MHz; no rule reads it (log 16). -/
opaque Config.fSckHz : Fin 24000001

/-- T_CS_HIGH_MIN (R12, R181): open; no rule reads it (log 16). -/
opaque Config.tCsHighMin : Nat

/-- Clock polarity 0: the level SCK idles at (R6, 10_state.md R28). -/
def Config.sckIdle : Bool := false

/-- DEV's answer to the n-th free draw of HRDY, under no law (60_exceptions.md R156; log 3). -/
opaque Config.freeHrdy : Nat → Bool

/-- DEV's answer to the n-th free draw of a MISO byte, under no law (60_exceptions.md R156; log 3). -/
opaque Config.freeMiso : Nat → Byte

/-- The level of MOSI outside a transfer and at reset, any value (10_state.md R29; log 4). -/
opaque Config.freeMosi : Nat → Bool

/-- The value of RXHI at a reset, any value (10_state.md R33; log 5). -/
opaque Config.freeRxhi : Nat → Byte

end Sys2Proof
end

