-- ==== Sys2Proof/Syntax.lean ====
section
/-! DEFINITION. The requests of the controller: the record HOST presents (30_encoding.md R67), the six requests it can
select, one constructor for each row of opcode_table.json (R69), and the two pseudo-requests (R85). -/

namespace Sys2Proof

/-- The record on the REQ port (30_encoding.md R67). A field the selected request does not use is ignored. -/
structure Request where
  /-- HDR: OP in bits 2:0, RSV in bits 15:3 (R68). -/
  hdr : Word
  /-- OPC, used by CMD and CMDA. -/
  opc : Nat
  /-- WORDS, used by WRD, CMDA and W2B. -/
  words : List Nat
  /-- COUNT, used by RDD. -/
  count : Nat
  /-- BYTES, used by B2W. -/
  bytes : List Byte
  deriving DecidableEq, Repr

/-- A request with the operands it uses (30_encoding.md R69, R70). -/
inductive Instr where
  /-- CMD: send a command frame (R113). -/
  | cmd (opc : Nat)
  /-- WRD: send a write-data frame (R116). -/
  | wrd (words : List Nat)
  /-- RDD: send a read-data frame and return the words received (R120). -/
  | rdd (count : Nat)
  /-- CMDA: send a command with arguments (R125). -/
  | cmda (opc : Nat) (words : List Nat)
  /-- W2B: words to big-endian bytes (R99). -/
  | w2b (words : List Nat)
  /-- B2W: big-endian bytes to words (R100). -/
  | b2w (bytes : List Byte)
  deriving DecidableEq, Repr

/-- What the decoder reads from a request: the request it selects, or by name why its header selects none (R71). -/
inductive Decoded where
  | instr (i : Instr)
  /-- RSV, bits 15:3, is not 0. -/
  | reservedBits (hdr : Word)
  /-- OP, bits 2:0, is 0b110 or 0b111. -/
  | reservedOp (hdr : Word)
  deriving DecidableEq, Repr

/-- The pseudo-requests of the source's Register Access component (R85): names for fixed sequences of requests. -/
inductive Pseudo where
  /-- REG_WR reg, value (R86). -/
  | regWr (reg value : Nat)
  /-- REG_RD reg (R87). -/
  | regRd (reg : Nat)
  deriving DecidableEq, Repr

end Sys2Proof
end

