-- ==== Sys2Proof/WellFormed.lean ====
section
/-! DEFINITION. What HOST can present, and which parameter values an instance can have (00_scope.md R8 to R11). The
length limit REQ_MAX_WORDS and the 16-bit range are no such conditions: the controller itself answers a request that
breaks them (60_exceptions.md R138, R139). -/

namespace Sys2Proof

/-- The values READY_TIMEOUT_POLLS (NONE or positive), HOST_VALUE_WIDTH (at least 16) and REQ_MAX_WORDS (UNBOUNDED or
positive) can have. -/
def Params.wf (p : Params) : Bool :=
  p.readyTimeoutPolls.all (fun t => decide (1 ≤ t)) && p.hostValueWidth.all (fun n => decide (16 ≤ n)) &&
    p.reqMaxWords.all (fun m => decide (1 ≤ m))

/-- An unsigned value of HOST_VALUE_WIDTH bits (R10); with no width set, any natural. -/
def fitsWidth (width : Option Nat) (v : Nat) : Bool :=
  width.all (fun n => decide (v < 2 ^ n))

/-- The host values of the record fit the port (R67, R10). -/
def Request.fits (width : Option Nat) (r : Request) : Bool :=
  fitsWidth width r.opc && r.words.all (fitsWidth width)

/-- The host values a request uses fit the port (R10). -/
def Instr.wf (width : Option Nat) : Instr → Bool
  | .cmd opc => fitsWidth width opc
  | .wrd words => words.all (fitsWidth width)
  | .rdd _ => true
  | .cmda opc words => fitsWidth width opc && words.all (fitsWidth width)
  | .w2b words => words.all (fitsWidth width)
  | .b2w _ => true

end Sys2Proof
end

