-- ==== Sys2Proof/Decode.lean ====
section
/-! DEFINITION. From a request record to the request it selects and back (30_encoding.md section 1), the words of
opcode_table.json, and the expansion of the pseudo-requests (R85 to R87). -/

namespace Sys2Proof

/-- OP, bits 2:0 of the header (30_encoding.md R68). -/
def hdrOp (h : Word) : BitVec 3 := h.extractLsb' 0 3

/-- RSV, bits 15:3 of the header (R68). -/
def hdrRsv (h : Word) : BitVec 13 := h.extractLsb' 3 13

/-- The request a record selects, with the operands R70 gives it (R69), or why it selects none (R71). -/
def decode (r : Request) : Decoded :=
  if hdrRsv r.hdr ≠ 0#13 then .reservedBits r.hdr
  else
    match (hdrOp r.hdr).toNat with
    | 0 => .instr (.cmd r.opc)
    | 1 => .instr (.wrd r.words)
    | 2 => .instr (.rdd r.count)
    | 3 => .instr (.cmda r.opc r.words)
    | 4 => .instr (.w2b r.words)
    | 5 => .instr (.b2w r.bytes)
    | _ => .reservedOp r.hdr

/-- The record with every operand field unused. -/
def bareRequest (h : Word) : Request :=
  { hdr := h, opc := 0, words := [], count := 0, bytes := [] }

/-- The record of a request: its header value of R69, its operands in the fields of R70, every other field unused. -/
def encode : Instr → Request
  | .cmd opc => { bareRequest 0x0000#16 with opc := opc }
  | .wrd words => { bareRequest 0x0001#16 with words := words }
  | .rdd count => { bareRequest 0x0002#16 with count := count }
  | .cmda opc words => { bareRequest 0x0003#16 with opc := opc, words := words }
  | .w2b words => { bareRequest 0x0004#16 with words := words }
  | .b2w bytes => { bareRequest 0x0005#16 with bytes := bytes }

/-- The record of a row of opcode_table.json: its `nbits` bits are the header, the operand fields are zero and empty
(log 14). -/
def requestOfTableWord (nbits w : Nat) : Request :=
  bareRequest (BitVec.ofNat 16 (w % 2 ^ nbits))

/-- What the decoder reads from a table word; a word with bits above the 16-bit header is no record. -/
def decodeTableWord (nbits w : Nat) : Option Instr :=
  if w % 2 ^ nbits < 2 ^ 16 then
    match decode (requestOfTableWord nbits w) with
    | .instr i => some i
    | .reservedBits _ => none
    | .reservedOp _ => none
  else none

/-- The command opcodes of 30_encoding.md R89: payload the controller carries and never interprets (R94). -/
def opSysRun : Nat := 0x0001
def opStandby : Nat := 0x0002
def opSleep : Nat := 0x0003
def opRegRd : Nat := 0x0010
def opRegWr : Nat := 0x0011
def opLdImg : Nat := 0x0020
def opLdImgArea : Nat := 0x0021
def opLdImgEnd : Nat := 0x0022
def opDpyArea : Nat := 0x0034
def opDpyBufArea : Nat := 0x0037
def opPowerSequence : Nat := 0x0038
def opCmdVcom : Nat := 0x0039
def opFillRect : Nat := 0x003A
def opCmdTemperature : Nat := 0x0040
def opBppSettings : Nat := 0x0080
def opLdImg1bpp : Nat := 0x0095
def opGetDevInfo : Nat := 0x0302

/-- The register offsets the source names, within regions whose bases it lost (R90): LISAR in the memory-conversion
region, LUTAFSR in the display-control region. -/
def offsetLisar : Nat := 0x08
def offsetLutafsr : Nat := 0x224

/-- The ImageInfo word (R91): the endianness flag in bit 8, the depth code in bits 7:4, the rotation code in bits 3:0;
bits 15:9 are not in the source, and 0 here (log 20). -/
def imageInfo (endian : Bool) (depth rotation : BitVec 4) : Word :=
  (0#7 ++ BitVec.ofBool endian) ++ (depth ++ rotation)

/-- The image-buffer address of a device-info response (R92): word 3 is its high half, word 2 its low half. -/
def deviceInfoAddress (words : List Word) : Option (BitVec 32) :=
  match words with
  | _ :: _ :: low :: high :: _ => some (high ++ low)
  | _ => none

/-- The requests a pseudo-request expands into (R86, R87). -/
def Pseudo.expand : Pseudo → List Instr
  | .regWr reg value => [.cmda opRegWr [reg, value]]
  | .regRd reg => [.cmda opRegRd [reg], .rdd 1]

end Sys2Proof
end

