-- ==== Sys2Proof/Machine/State.lean ====
section
/-! DEFINITION. The state of the controller (10_state.md), the environment around it as plain data, the reasons a step
can stop, and the state after reset (10_state.md R49). -/

namespace Sys2Proof.Machine

/-- PHASE, the sequencer state (10_state.md R30), named for the step taken in it. -/
inductive Phase where
  | idle | validate | codec | assert | gate | xferHi | xferLo | deassert | done
  deriving DecidableEq, Repr

/-- An event of the bus trace (10_state.md R40). -/
inductive BusEvent where
  /-- CS_N went 1 to 0. -/
  | csl
  /-- CS_N went 0 to 1. -/
  | csh
  /-- HRDY was sampled as `h`. -/
  | poll (h : Bool)
  /-- One byte transfer: `tx` sent, `rx` received. -/
  | xfer (tx rx : Byte)
  deriving DecidableEq, Repr

/-- The outcome of a request (60_exceptions.md R136); `Status.code` gives the numbers. -/
inductive Status where
  | ok | illegalRequest | rangeError | formatError | deviceNotResponding
  deriving DecidableEq, Repr

/-- The arguments of `respond` (00_scope.md R18), which are also what HOST is told. -/
structure Response where
  status : Status
  words : List Word
  bytes : List Byte
  info : Nat
  deriving DecidableEq, Repr

/-- OK with nothing to report. -/
def Response.blank : Response := { status := .ok, words := [], bytes := [], info := 0 }

/-- What lies outside the controller, as plain data: what HOST, DEV and the reset input will do. -/
structure Env where
  /-- The coming levels of RESET_N, one a step; used up, it stays 1 (10_state.md R25; log 8). -/
  resetN : List Bool
  /-- The requests HOST still presents, in order (70_reset_and_hazards.md R182; log 7). -/
  requests : List Request
  /-- DEV's coming HRDY samples; used up, each is a free value (60_exceptions.md R156; log 3). -/
  hrdy : List Bool
  /-- DEV's coming MISO bytes; used up, each is a free value (60_exceptions.md R156; log 3). -/
  miso : List Byte
  /-- How many free values have been taken (log 3). -/
  draws : Nat
  deriving DecidableEq, Repr

/-- The state. Pins are levels: `true` is 1. -/
structure State where
  /-- The parameters of the instance; no step writes them (10_state.md R46; log 2). -/
  params : Params
  /-- CS_N, active low (R27). -/
  csN : Bool
  /-- SCK (R28). -/
  sck : Bool
  /-- MOSI (R29; log 4). -/
  mosi : Bool
  /-- PHASE (R30). -/
  phase : Phase
  /-- FIDX (R31). -/
  fidx : Nat
  /-- WIDX (R31). -/
  widx : Nat
  /-- SENT (R31). -/
  sent : Nat
  /-- FRAMES (R32). -/
  frames : List (List Word)
  /-- RXQ (R33). -/
  rxq : List Word
  /-- RXHI (R33; log 5). -/
  rxhi : Byte
  /-- POLLS (R34). -/
  polls : Nat
  /-- REQ_LATCH (R35). -/
  reqLatch : Option Request
  /-- The arguments of the respond to come, implied by R112 and R147 (log 6). -/
  outcome : Response
  /-- STAT.CODE (R36); `State.stat` is the register. -/
  code : BitVec 3
  /-- ERR_INFO (R37). -/
  errInfo : Nat
  /-- RESULT_WORDS (R38). -/
  resultWords : List Word
  /-- RESULT_BYTES (R38). -/
  resultBytes : List Byte
  /-- TRACE (R40). -/
  trace : List BusEvent
  /-- The responses given (R182; log 10). -/
  responses : List Response
  /-- HOST, DEV and the reset input. -/
  env : Env
  deriving DecidableEq, Repr

/-- Why a step stops without a next state. Neither reason is the spec's: both arise only in states that no run
reaches (log 12). -/
inductive Fault where
  /-- Raised by XFER_HI and XFER_LO when (FIDX, WIDX) names no word of FRAMES; safe. -/
  | noSuchWord
  /-- Raised by `step` outside IDLE when REQ_LATCH is empty; safe. -/
  | noRequestLatched
  deriving DecidableEq, Repr

/-- Why a step is refused. -/
inductive Refusal where
  /-- Raised by an arm of `exec` whose instruction has no meaning yet; safe. -/
  | notModelled (mnemonic : String)
  /-- Raised by acceptance when a host value has more bits than HOST_VALUE_WIDTH, which no HOST can present
  (00_scope.md R10; log 11); safe. -/
  | hostValueTooWide
  deriving DecidableEq, Repr

/-- The state after reset (10_state.md R49), with the default parameters and an environment that does nothing. MOSI and
RXHI, which R49 leaves at any value, are 0 here (log 4, log 5). -/
def State.reset : State :=
  { params := Params.default
    csN := true, sck := false, mosi := false
    phase := .idle, fidx := 0, widx := 0, sent := 0
    frames := [], rxq := [], rxhi := 0#8, polls := 0, reqLatch := none
    outcome := Response.blank
    code := 0#3, errInfo := 0, resultWords := [], resultBytes := []
    trace := [], responses := []
    env := { resetN := [], requests := [], hrdy := [], miso := [], draws := 0 } }

/-- A run's launch state (70_reset_and_hazards.md R182, R185): reset, for an instance with the given parameters, with
the host program still to be presented and DEV's answers to come. -/
def State.launch (p : Params) (env : Env) : State :=
  { State.reset with params := p, env := env }

end Sys2Proof.Machine
end

