-- ==== Sys2Proof/Machine/Operands.lean ====
section
/-! DEFINITION. Operand assembly (30_encoding.md R78, R79), the checks on operands and the codec functions
(40_wire_codec.md R96 to R98; 60_exceptions.md R143). -/

namespace Sys2Proof.Machine

/-- `hi(w) = w[15:8]` (00_scope.md R14). -/
def hi (w : Word) : Byte := w.extractLsb' 8 8

/-- `lo(w) = w[7:0]` (00_scope.md R14). -/
def lo (w : Word) : Byte := w.extractLsb' 0 8

/-- The word of two bytes, the first the high one (20_memory.md R50): `b0 : b1`. -/
def wordOfBytes (b0 b1 : Byte) : Word := b0 ++ b1

/-- `v[15:0]` of a host value (30_encoding.md R78); the range check stands before every use. -/
def wordOfHost (v : Nat) : Word := BitVec.ofNat 16 v

/-- The words of a checked list (40_wire_codec.md R97). -/
def wordsOfHost (vs : List Nat) : List Word := vs.map wordOfHost

/-- WordsToBytes (40_wire_codec.md R96). -/
def wordsToBytes : List Word → List Byte
  | [] => []
  | w :: ws => hi w :: lo w :: wordsToBytes ws

/-- The words of a byte list, two bytes each, the high one first (R98). -/
def pairBytes : List Byte → List Word
  | b0 :: b1 :: rest => wordOfBytes b0 b1 :: pairBytes rest
  | _ => []

/-- A check's result: a value, or `raise <Error>(info)` (00_scope.md R18). -/
inductive Check (α : Type) where
  | pass (a : α)
  | raise (e : Status) (info : Nat)
  deriving DecidableEq, Repr

/-- The first failure of two checks in order (60_exceptions.md R143). -/
def Check.bind {α β : Type} (c : Check α) (f : α → Check β) : Check β :=
  match c with
  | .pass a => f a
  | .raise e info => .raise e info

/-- RangeCheck (40_wire_codec.md R97): the words, or RANGE_ERROR at the first element above 0xFFFF. -/
def rangeCheck (vs : List Nat) : Check (List Word) :=
  match vs.findIdx? (fun v => decide (0xFFFF < v)) with
  | some i => .raise .rangeError i
  | none => .pass (wordsOfHost vs)

/-- BytesToWords (40_wire_codec.md R98): the words, or FORMAT_ERROR with an odd length. -/
def bytesToWords (bs : List Byte) : Check (List Word) :=
  if bs.length % 2 = 1 then .raise .formatError bs.length else .pass (pairBytes bs)

/-- The length check of R143: ILLEGAL_REQUEST with the presented length when `words` exceeds REQ_MAX_WORDS. -/
def lengthCheck (p : Params) (words presented : Nat) : Check Unit :=
  match p.reqMaxWords with
  | none => .pass ()
  | some m => if m < words then .raise .illegalRequest presented else .pass ()

end Sys2Proof.Machine
end

