-- ==== Sys2Proof/Machine/Flags.lean ====
section
/-! DEFINITION. The status register (10_state.md R36), the only flags there are (R39), and what HOST reads. -/

namespace Sys2Proof.Machine

/-- The numbers of the status codes (60_exceptions.md R136). -/
def Status.code : Status → BitVec 3
  | .ok => 0#3
  | .illegalRequest => 1#3
  | .rangeError => 2#3
  | .formatError => 3#3
  | .deviceNotResponding => 4#3

/-- STAT.BUSY reads 1 when PHASE ≠ IDLE (10_state.md R36). -/
def State.busy (s : State) : Bool := decide (s.phase ≠ .idle)

/-- STAT (R36): CODE in bits 2:0, BUSY in bit 3, bits 15:4 hardwired 0. -/
def State.stat (s : State) : BitVec 16 := 0#12 ++ (BitVec.ofBool s.busy ++ s.code)

/-- The host registers by number (R36 to R38): HS0 to HS3. -/
inductive HostReg where
  | hs0 | hs1 | hs2 | hs3
  deriving DecidableEq, Repr

/-- What a host register holds. -/
inductive HostData where
  | bits (v : BitVec 16)
  | nat (n : Nat)
  | words (ws : List Word)
  | bytes (bs : List Byte)
  deriving DecidableEq, Repr

/-- A read of a host register: STAT, ERR_INFO, RESULT_WORDS, RESULT_BYTES, all read-only to HOST (R23). -/
def State.readHost (s : State) : HostReg → HostData
  | .hs0 => .bits s.stat
  | .hs1 => .nat s.errInfo
  | .hs2 => .words s.resultWords
  | .hs3 => .bytes s.resultBytes

end Sys2Proof.Machine
end

