-- ==== Sys2Proof/Machine/Wire.lean ====
section
/-! DEFINITION. The wire: preambles and frames (30_encoding.md section 2), bit order and the levels of one byte
transfer (20_memory.md R51), the events of SetCS (00_scope.md R17). -/

namespace Sys2Proof.Machine

/-- CMD preamble (00_scope.md R6). -/
def cmdPreamble : Word := 0x6000#16

/-- WRD preamble (R6). -/
def wrdPreamble : Word := 0x0000#16

/-- RDD preamble (R6). -/
def rddPreamble : Word := 0x1000#16

/-- RDD placeholder word (R6). -/
def placeholder : Word := 0x0000#16

/-- How many received words of a read frame are dropped: the echo word and the dummy word (R6, 41_transport.md R124). -/
def rddDropped : Nat := 2

/-- The command frame (30_encoding.md R73). -/
def commandFrame (c : Word) : List Word := [cmdPreamble, c]

/-- The write-data frame (R74), for a list that is not empty. -/
def writeFrame (ws : List Word) : List Word := wrdPreamble :: ws

/-- ReadFrame(n) (41_transport.md R119), for n ≥ 1. -/
def readFrame (n : Nat) : List Word := rddPreamble :: List.replicate (n + 1) placeholder

/-- The frames of WRD (41_transport.md R116): none for an empty list. -/
def wrdFrames (ws : List Word) : List (List Word) :=
  if ws = [] then [] else [writeFrame ws]

/-- The frames of RDD (41_transport.md R120): none for count 0. -/
def rddFrames (n : Nat) : List (List Word) :=
  if n = 0 then [] else [readFrame n]

/-- The frames of CMDA (41_transport.md R125, R131). -/
def cmdaFrames (framing : CmdaFraming) (c : Word) (a : List Word) : List (List Word) :=
  if a = [] then [commandFrame c]
  else
    match framing with
    | .twoFrames => [commandFrame c, writeFrame a]
    | .oneFrame => [commandFrame c ++ writeFrame a]

/-- The events of driving CS_N from `old` to `new` (00_scope.md R17): none when it already has that level. -/
def csEvents (old new : Bool) : List BusEvent :=
  match old, new with
  | true, false => [.csl]
  | false, true => [.csh]
  | _, _ => []

/-- The bits of a byte in the order they stand on the wire, bit 7 first (20_memory.md R51). -/
def bitsMsbFirst (b : Byte) : List Bool :=
  [b.getLsbD 7, b.getLsbD 6, b.getLsbD 5, b.getLsbD 4, b.getLsbD 3, b.getLsbD 2, b.getLsbD 1, b.getLsbD 0]

/-- The levels of the three SPI wires. -/
structure PinLevels where
  sck : Bool
  mosi : Bool
  miso : Bool
  deriving DecidableEq, Repr

/-- One clock cycle of mode 0: the bits are driven while SCK idles, and sampled on its leading edge (R51). -/
def bitCycle (tx rx : Bool) : List PinLevels :=
  [{ sck := Config.sckIdle, mosi := tx, miso := rx }, { sck := !Config.sckIdle, mosi := tx, miso := rx }]

/-- The levels of one byte transfer, eight cycles (10_state.md R28, 20_memory.md R51): the bit-level refinement of
SpiXfer8, which the machine takes as one step (log 17). -/
def byteWave (tx rx : Byte) : List PinLevels :=
  (List.zipWith bitCycle (bitsMsbFirst tx) (bitsMsbFirst rx)).flatten

end Sys2Proof.Machine
end

