-- ==== Sys2Proof/Machine/Ops.lean ====
section
/-! DEFINITION. The shared operations: draws, the wire primitives (00_scope.md R17), the step of each PHASE
(10_state.md R30) as a primitive and the bookkeeping up to the next one (00_scope.md R19), taking an error
(60_exceptions.md R147), responding (10_state.md R44), acceptance (R45), reset (70_reset_and_hazards.md R163, R164), and
the walk of one request through its phases (41_transport.md R112). -/

namespace Sys2Proof.Machine

/-- What one step of the controller answers. -/
abbrev StepResult := Host.Outcome State Fault Refusal

/-- The next state, if there is one. -/
def nextOf : StepResult → Option State
  | .next s => some s
  | .fault _ => none
  | .refused _ => none

/-! Draws (60_exceptions.md R156). -/

/-- DEV's next HRDY sample. -/
def drawHrdy (e : Env) : Bool × Env :=
  match e.hrdy with
  | h :: rest => (h, { e with hrdy := rest })
  | [] => (Config.freeHrdy e.draws, { e with draws := e.draws + 1 })

/-- DEV's next MISO byte. -/
def drawMiso (e : Env) : Byte × Env :=
  match e.miso with
  | b :: rest => (b, { e with miso := rest })
  | [] => (Config.freeMiso e.draws, { e with draws := e.draws + 1 })

/-! Wire primitives (00_scope.md R17). -/

/-- SetCS(v). -/
def setCS (v : Bool) (s : State) : State :=
  { s with csN := v, trace := s.trace ++ csEvents s.csN v }

/-- SampleHRDY(). -/
def sampleHrdy (s : State) : Bool × State :=
  ((drawHrdy s.env).1,
    { s with env := (drawHrdy s.env).2, trace := s.trace ++ [.poll (drawHrdy s.env).1] })

/-- SpiXfer8(tx); SCK is back at its idle level after the eight cycles of `byteWave` (10_state.md R28). -/
def spiXfer8 (tx : Byte) (s : State) : Byte × State :=
  ((drawMiso s.env).1,
    { s with
      env := (drawMiso s.env).2, sck := Config.sckIdle
      trace := s.trace ++ [.xfer tx (drawMiso s.env).1] })

/-- MOSI outside a transfer is any value (10_state.md R29; log 4). -/
def floatMosi (s : State) : State :=
  { s with mosi := Config.freeMosi s.env.draws, env := { s.env with draws := s.env.draws + 1 } }

/-- The end of a step: no transfer is in progress, so MOSI floats. -/
def settle : StepResult → StepResult
  | .next s => .next (floatMosi s)
  | .fault f => .fault f
  | .refused f => .refused f

/-! Taking an error and responding. -/

/-- `raise` (60_exceptions.md R147, the abort procedure): the outcome is the error with empty results; chip-select is
deasserted first if it is asserted. -/
def abort (e : Status) (info : Nat) (s : State) : State :=
  { s with
    outcome := { status := e, words := [], bytes := [], info := info }
    phase := if s.csN then .done else .deassert }

/-- `respond(status, words, bytes, info)`, the step of DONE (10_state.md R44) and the return from an error
(60_exceptions.md R149). It clears RXQ (R44) and RXHI (41_transport.md R129; log 22). -/
def respond (s : State) : State :=
  let r := s.outcome
  let info := if r.status = .ok then 0 else r.info
  { s with
    code := r.status.code, errInfo := info, resultWords := r.words, resultBytes := r.bytes
    reqLatch := none, frames := [], rxq := [], rxhi := 0#8, phase := .idle
    outcome := Response.blank
    responses := s.responses ++ [{ r with info := info }] }

/-! Acceptance and reset. -/

/-- REQ_LATCH takes the request (10_state.md R45). -/
def latch (r : Request) (s : State) : State :=
  { s with
    reqLatch := some r, fidx := 0, widx := 0, sent := 0, polls := 0
    outcome := Response.blank, phase := .validate }

/-- Acceptance of a presented request (R45); a value the port has no bits for cannot be presented (log 11). -/
def accept (r : Request) (s : State) : StepResult :=
  if r.fits s.params.hostValueWidth then .next (latch r s) else .refused .hostValueTooWide

/-- The requests HOST still presents become `rest`. -/
def withRequests (rest : List Request) (s : State) : State := { s with env := { s.env with requests := rest } }

/-- The coming levels of RESET_N become `rest`. -/
def withResetN (rest : List Bool) (s : State) : State := { s with env := { s.env with resetN := rest } }

/-- The step of IDLE: take the request HOST presents, or wait (R45; 60_exceptions.md R160). -/
def idleStep (s : State) : StepResult :=
  settle
    (match s.env.requests with
      | [] => .next s
      | r :: rest => accept r (withRequests rest s))

/-- A step with RESET_N = 0 (70_reset_and_hazards.md R163, R164): every piece of state at its reset value, MOSI and
RXHI at any value, `CSH` in TRACE if chip-select was asserted; no response. TRACE and the responses given are the
observation and stay (log 9). -/
def resetStep (s : State) : State :=
  { State.reset with
    params := s.params
    mosi := Config.freeMosi s.env.draws
    rxhi := Config.freeRxhi s.env.draws
    trace := s.trace ++ csEvents s.csN true
    responses := s.responses
    env := { s.env with draws := s.env.draws + 1 } }

/-! Bookkeeping: the assignments and comparisons between one primitive and the next. -/

/-- What validation finds (60_exceptions.md R143): a codec request goes to CODEC, a transport request has the frames
BuildFrames gives it (41_transport.md R112). -/
inductive Plan where
  | codec
  | frames (fs : List (List Word))
  deriving DecidableEq, Repr

/-- After validation (60_exceptions.md R143; 41_transport.md R112): a request without frames has its result at once
(R105). -/
def validated (c : Check Plan) (s : State) : State :=
  match c with
  | .raise e info => abort e info s
  | .pass .codec => { s with phase := .codec }
  | .pass (.frames []) => { s with frames := [], outcome := Response.blank, phase := .done }
  | .pass (.frames (f :: fs)) => { s with frames := f :: fs, outcome := Response.blank, phase := .assert }

/-- After CODEC (40_wire_codec.md R99, R100): the result is known. -/
def coded (ws : List Word) (bs : List Byte) (s : State) : State :=
  { s with outcome := { status := .ok, words := ws, bytes := bs, info := 0 }, phase := .done }

/-- Entry to a gate (41_transport.md R106). -/
def enterGate (s : State) : State := { s with polls := 0, phase := .gate }

/-- After SetCS(0) (41_transport.md R110): the frame starts, at the gate of word 0. -/
def startFrame (s : State) : State := enterGate { s with widx := 0, rxq := [] }

/-- Has a gate with `n` failed samples timed out (41_transport.md R106)? -/
def timedOut (p : Params) (n : Nat) : Bool := p.readyTimeoutPolls.any (fun t => decide (t ≤ n))

/-- A failed sample is counted. -/
def countPoll (s : State) : State := { s with polls := s.polls + 1 }

/-- After SampleHRDY (41_transport.md R106): a failed sample counts, and the T-th raises DEVICE_NOT_RESPONDING with SENT
(60_exceptions.md R141). -/
def sampled (h : Bool) (s : State) : State :=
  if h then { s with phase := .xferHi }
  else if timedOut s.params (s.polls + 1) then abort .deviceNotResponding s.sent (countPoll s)
  else countPoll s

/-- The frame in progress, FRAMES[FIDX]; empty if there is none. -/
def State.frame (s : State) : List Word := s.frames.getD s.fidx []

/-- The word in progress, FRAMES[FIDX][WIDX]. -/
def State.word? (s : State) : Option Word := s.frame[s.widx]?

/-- The received word into RXQ, SENT and WIDX counted (41_transport.md R108, R110). -/
def storeWord (rxl : Byte) (s : State) : State :=
  { s with rxq := s.rxq ++ [wordOfBytes s.rxhi rxl], sent := s.sent + 1, widx := s.widx + 1 }

/-- After the low byte (41_transport.md R108, R110): on to the next word's gate, or to the end of the frame. -/
def wordSent (rxl : Byte) (s : State) : State :=
  if s.widx + 1 < s.frame.length then enterGate (storeWord rxl s)
  else { storeWord rxl s with phase := .deassert }

/-- The outcome of a request whose last frame is complete (41_transport.md R112): for a read request the received words
but the echo and dummy words (R124), else nothing. -/
def frameOutcome (reads : Bool) (rxq : List Word) : Response :=
  { status := .ok, words := if reads then rxq.drop rddDropped else [], bytes := [], info := 0 }

/-- After SetCS(1) (41_transport.md R110; 60_exceptions.md R147): after an aborted frame the outcome stands; after a
complete one the next frame starts, or the result is known (41_transport.md R112). -/
def frameEnded (reads : Bool) (s : State) : State :=
  if s.outcome.status ≠ .ok then { s with phase := .done }
  else if s.fidx + 1 < s.frames.length then { s with fidx := s.fidx + 1, phase := .assert }
  else { s with fidx := s.fidx + 1, outcome := frameOutcome reads s.rxq, phase := .done }

/-- The bookkeeping a step leaves to be done (00_scope.md R19), with the value the step has at hand. -/
inductive Bookkeeping where
  /-- Nothing: acceptance and `respond` are whole in their own step (10_state.md R44, R45). -/
  | none
  | validated (c : Check Plan)
  | coded (ws : List Word) (bs : List Byte)
  /-- After SetCS(0). -/
  | startFrame
  /-- After SampleHRDY. -/
  | sampled (h : Bool)
  /-- After the high byte. -/
  | highSent
  /-- After the low byte. -/
  | wordSent (rxl : Byte)
  /-- After SetCS(1). -/
  | frameEnded (reads : Bool)
  deriving DecidableEq, Repr

/-- The bookkeeping, done. PHASE is part of it: it names the next step (10_state.md R30). -/
def Bookkeeping.perform : Bookkeeping → State → State
  | .none, s => s
  | .validated c, s => Machine.validated c s
  | .coded ws bs, s => Machine.coded ws bs s
  | .startFrame, s => Machine.startFrame s
  | .sampled h, s => Machine.sampled h s
  | .highSent, s => { s with phase := .xferLo }
  | .wordSent rxl, s => Machine.wordSent rxl s
  | .frameEnded reads, s => Machine.frameEnded reads s

/-! The walk of one request. -/

/-- What the six requests differ in. -/
structure Recipe where
  /-- The record that presents the request. -/
  request : Request
  /-- Validation and BuildFrames (60_exceptions.md R143; 41_transport.md R112). -/
  plan : Params → Check Plan
  /-- The result of CODEC (40_wire_codec.md R99, R100); empty for a transport request. -/
  codecWords : List Word
  codecBytes : List Byte
  /-- Are the words received in its frame its result (41_transport.md R112)? -/
  reads : Bool

/-- What a step is before its bookkeeping: the state after it, and the bookkeeping left. -/
abbrev PrimitiveResult := Host.Outcome (State × Bookkeeping) Fault Refusal

/-- Acceptance, which leaves nothing to be done. -/
def acceptPrimitive (r : Request) (s : State) : PrimitiveResult :=
  match accept r s with
  | .next t => .next (t, .none)
  | .fault f => .fault f
  | .refused f => .refused f

/-- SpiXfer8 of the high byte of the word in progress, received into RXHI (41_transport.md R108). -/
def xferHiPrimitive (s : State) : PrimitiveResult :=
  match s.word? with
  | none => .fault .noSuchWord
  | some w => .next ({ (spiXfer8 (hi w) s).2 with rxhi := (spiXfer8 (hi w) s).1 }, .highSent)

/-- SpiXfer8 of its low byte (41_transport.md R108). -/
def xferLoPrimitive (s : State) : PrimitiveResult :=
  match s.word? with
  | none => .fault .noSuchWord
  | some w => .next ((spiXfer8 (lo w) s).2, .wordSent (spiXfer8 (lo w) s).1)

/-- The step PHASE names (10_state.md R30), its bookkeeping left. In IDLE it is the acceptance of the request
(log 13). -/
def primitive (r : Recipe) (s : State) : PrimitiveResult :=
  match s.phase with
  | .idle => acceptPrimitive r.request s
  | .validate => .next (s, .validated (r.plan s.params))
  | .codec => .next (s, .coded r.codecWords r.codecBytes)
  | .assert => .next (setCS false s, .startFrame)
  | .gate => .next ((sampleHrdy s).2, .sampled (sampleHrdy s).1)
  | .xferHi => xferHiPrimitive s
  | .xferLo => xferLoPrimitive s
  | .deassert => .next (setCS true s, .frameEnded r.reads)
  | .done => .next (respond s, .none)

/-- A step closed by its bookkeeping: 10_state.md R30 to R34 and R41 say what PHASE, the counters and RXQ are between
two steps, and that is with the bookkeeping done (log 1; Machine/Late.lean leaves it to the next step, as R19 has it). -/
def perform : PrimitiveResult → StepResult
  | .next (s, b) => .next (b.perform s)
  | .fault f => .fault f
  | .refused f => .refused f

/-- The step PHASE names (10_state.md R30). -/
def phaseStep (r : Recipe) (s : State) : StepResult := perform (primitive r s)

/-- One step of a request. -/
def runPhase (r : Recipe) (s : State) : StepResult := settle (phaseStep r s)

end Sys2Proof.Machine
end

