-- ==== Sys2Proof/Machine/Codec.lean ====
section
/-! DEFINITION. The codec requests W2B and B2W (40_wire_codec.md R95 to R100), and a request whose header selects
nothing (30_encoding.md R71). -/

namespace Sys2Proof.Machine

/-- Validation of W2B (40_wire_codec.md R99). -/
def w2bPlan (words : List Nat) (p : Params) : Check Plan :=
  (lengthCheck p words.length words.length).bind fun _ =>
    (rangeCheck words).bind fun _ => .pass .codec

/-- What W2B is made of (R99). -/
abbrev w2bRecipe (words : List Nat) : Recipe :=
  { request := encode (.w2b words), plan := w2bPlan words, codecWords := [],
    codecBytes := wordsToBytes (wordsOfHost words), reads := false }

/-- W2B (R99). -/
def execW2b (words : List Nat) (s : State) : StepResult := runPhase (w2bRecipe words) s

/-- Validation of B2W (R100). -/
def b2wPlan (bytes : List Byte) (p : Params) : Check Plan :=
  (lengthCheck p ((bytes.length + 1) / 2) bytes.length).bind fun _ =>
    (bytesToWords bytes).bind fun _ => .pass .codec

/-- What B2W is made of (R100). -/
abbrev b2wRecipe (bytes : List Byte) : Recipe :=
  { request := encode (.b2w bytes), plan := b2wPlan bytes, codecWords := pairBytes bytes, codecBytes := [],
    reads := false }

/-- B2W (R100). -/
def execB2w (bytes : List Byte) (s : State) : StepResult := runPhase (b2wRecipe bytes) s

/-- What a request whose header selects none of the six is made of (30_encoding.md R71; 60_exceptions.md R138):
ILLEGAL_REQUEST with the header value. -/
abbrev illegalRecipe (r : Request) : Recipe :=
  { request := r, plan := fun _ => .raise .illegalRequest r.hdr.toNat, codecWords := [], codecBytes := [],
    reads := false }

/-- Such a request, refused without bus activity (R71). -/
def execIllegal (r : Request) (s : State) : StepResult := runPhase (illegalRecipe r) s

end Sys2Proof.Machine
end

