-- ==== Sys2Proof/Machine/Transport.lean ====
section
/-! DEFINITION. The transport requests CMD, WRD, RDD and CMDA (41_transport.md). -/

namespace Sys2Proof.Machine

/-- Validation and frames of CMD (41_transport.md R113; 60_exceptions.md R143). -/
def cmdPlan (opc : Nat) (_ : Params) : Check Plan :=
  (rangeCheck [opc]).bind fun v => .pass (.frames [commandFrame (v.headD 0)])

/-- What CMD is made of (R113). -/
abbrev cmdRecipe (opc : Nat) : Recipe :=
  { request := encode (.cmd opc), plan := cmdPlan opc, codecWords := [], codecBytes := [], reads := false }

/-- CMD (R113). -/
def execCmd (opc : Nat) (s : State) : StepResult := runPhase (cmdRecipe opc) s

/-- Validation and frames of WRD (R116). -/
def wrdPlan (words : List Nat) (p : Params) : Check Plan :=
  (lengthCheck p words.length words.length).bind fun _ =>
    (rangeCheck words).bind fun w => .pass (.frames (wrdFrames w))

/-- What WRD is made of (R116). -/
abbrev wrdRecipe (words : List Nat) : Recipe :=
  { request := encode (.wrd words), plan := wrdPlan words, codecWords := [], codecBytes := [], reads := false }

/-- WRD (R116). -/
def execWrd (words : List Nat) (s : State) : StepResult := runPhase (wrdRecipe words) s

/-- Validation and frames of RDD (R120). -/
def rddPlan (count : Nat) (p : Params) : Check Plan :=
  (lengthCheck p count count).bind fun _ => .pass (.frames (rddFrames count))

/-- What RDD is made of (R120); `nframes` is len(FRAMES) (R112). -/
abbrev rddRecipe (count nframes : Nat) : Recipe :=
  { request := encode (.rdd count), plan := rddPlan count, codecWords := [], codecBytes := [],
    reads := decide (nframes = 1) }

/-- RDD (R120). -/
def execRdd (count : Nat) (s : State) : StepResult := runPhase (rddRecipe count s.frames.length) s

/-- Validation and frames of CMDA (R125): index 0 of the checked list is OPC. -/
def cmdaPlan (opc : Nat) (words : List Nat) (p : Params) : Check Plan :=
  (lengthCheck p words.length words.length).bind fun _ =>
    (rangeCheck (opc :: words)).bind fun v =>
      .pass (.frames (cmdaFrames p.cmdaFraming (v.headD 0) (v.drop 1)))

/-- What CMDA is made of (R125). -/
abbrev cmdaRecipe (opc : Nat) (words : List Nat) : Recipe :=
  { request := encode (.cmda opc words), plan := cmdaPlan opc words, codecWords := [], codecBytes := [],
    reads := false }

/-- CMDA (R125). -/
def execCmda (opc : Nat) (words : List Nat) (s : State) : StepResult := runPhase (cmdaRecipe opc words) s

end Sys2Proof.Machine
end

