-- ==== Sys2Proof/Machine/Dispatch.lean ====
section
/-! DEFINITION. One step of a request, one arm for each constructor of Instr. -/

namespace Sys2Proof.Machine

def exec (i : Instr) (s : State) : Host.Outcome State Fault Refusal :=
  match i with
  | .cmd opc => Sys2Proof.Machine.execCmd opc s
  | .wrd words => Sys2Proof.Machine.execWrd words s
  | .rdd count => Sys2Proof.Machine.execRdd count s
  | .cmda opc words => Sys2Proof.Machine.execCmda opc words s
  | .w2b words => Sys2Proof.Machine.execW2b words s
  | .b2w bytes => Sys2Proof.Machine.execB2w bytes s

end Sys2Proof.Machine
end

