-- ==== Sys2Proof/Machine/Fetch.lean ====
section
/-! DEFINITION. Which request a step runs (10_state.md R30, R45), the reset input (70_reset_and_hazards.md R163), and
where a request is placed for the next step to run it (log 14). -/

namespace Sys2Proof.Machine

/-- The latched request takes the step PHASE names. -/
def latchedStep (r : Request) (s : State) : StepResult :=
  match decode r with
  | .instr i => exec i s
  | .reservedBits _ => execIllegal r s
  | .reservedOp _ => execIllegal r s

/-- One step with RESET_N = 1: in IDLE the REQ port is read (10_state.md R45); in any other phase it is not. -/
def runStep (s : State) : StepResult :=
  if s.phase = .idle then idleStep s
  else
    match s.reqLatch with
    | none => .fault .noRequestLatched
    | some r => latchedStep r s

/-- One step: RESET_N comes first, whatever the phase (70_reset_and_hazards.md R163). -/
def resetOrRun (s : State) : StepResult :=
  match s.env.resetN with
  | [] => runStep s
  | level :: rest =>
    if level then runStep (withResetN rest s) else .next (resetStep (withResetN rest s))

/-- The request of a table word, accepted: in REQ_LATCH with PHASE = VALIDATE, and RESET_N not asserted, so that the
very next step runs it (log 14). -/
def placeTableWord (nbits w : Nat) (s : State) : State :=
  latch (requestOfTableWord nbits w) (withResetN [] s)

end Sys2Proof.Machine
end

