-- ==== Sys2Proof/Machine/Step.lean ====
section
/-! DEFINITION. One step of the controller, and the placing of a request for the next step. -/

namespace Sys2Proof.Machine

/-- One step of the controller (00_scope.md R19). -/
def step (s : State) : Host.Outcome State Fault Refusal := resetOrRun s

/-- The state in which the very next step runs the request of a table word (log 14). -/
def State.withFetchWord (s : State) (nbits w : Nat) : State := placeTableWord nbits w s

end Sys2Proof.Machine
end

