-- ==== Sys2Proof/Machine/Assembler.lean ====
section
/-! DEFINITION. The request syntax (30_encoding.md R83, R84): one request a line, from text to the request records.
What the rules leave open (white space, letter case, digits of a wrong kind) is log 19. -/

namespace Sys2Proof.Machine

/-- A lexeme of a line. -/
inductive Token where
  /-- A run of other characters: a mnemonic or a number. -/
  | lexeme (cs : List Char)
  | comma | lbracket | rbracket
  /-- `->`: the annotation of the expected response follows (R84). -/
  | arrow
  deriving DecidableEq, Repr

/-- The run read so far, if any, as a token. -/
def flushRun (run : List Char) : List Token :=
  if run = [] then [] else [.lexeme run.reverse]

/-- The tokens of a line up to its comment; `run` holds the characters read since the last token, newest first. -/
def tokens (run : List Char) : List Char → List Token
  | [] => flushRun run
  | c :: cs =>
    if c = ';' then flushRun run
    else if c = ' ' ∨ c = '\t' then flushRun run ++ tokens [] cs
    else if c = ',' then flushRun run ++ .comma :: tokens [] cs
    else if c = '[' then flushRun run ++ .lbracket :: tokens [] cs
    else if c = ']' then flushRun run ++ .rbracket :: tokens [] cs
    else if c = '>' ∧ run = ['-'] then .arrow :: tokens [] cs
    else tokens (c :: run) cs

/-- The value of a digit. -/
def digitValue (c : Char) : Option Nat :=
  if '0' ≤ c ∧ c ≤ '9' then some (c.toNat - '0'.toNat)
  else if 'a' ≤ c ∧ c ≤ 'f' then some (c.toNat - 'a'.toNat + 10)
  else if 'A' ≤ c ∧ c ≤ 'F' then some (c.toNat - 'A'.toNat + 10)
  else none

/-- Digits in a base, after the value `n` read so far. -/
def digits (base : Nat) (n : Nat) : List Char → Option Nat
  | [] => some n
  | c :: cs =>
    match digitValue c with
    | some d => if d < base then digits base (n * base + d) cs else none
    | none => none

/-- A number, decimal or `0x` hexadecimal (R84). -/
def number : List Char → Option Nat
  | '0' :: 'x' :: c :: cs => digits 16 0 (c :: cs)
  | [] => none
  | c :: cs => digits 10 0 (c :: cs)

/-- The elements of a list up to its `]`, after its `[`; `first` says that none has been read. -/
def listElements (first : Bool) : List Token → Option (List Nat × List Token)
  | .rbracket :: rest => if first then some ([], rest) else none
  | .lexeme cs :: .rbracket :: rest => (number cs).map fun n => ([n], rest)
  | .lexeme cs :: .comma :: rest =>
    match number cs, listElements false rest with
    | some n, some (ns, more) => some (n :: ns, more)
    | _, _ => none
  | _ => none

/-- A bracketed list (R83). -/
def bracketed : List Token → Option (List Nat × List Token)
  | .lbracket :: rest => listElements true rest
  | _ => none

/-- A list of bytes: the BYTES field holds u8 values only (30_encoding.md R67). -/
def byteList (ns : List Nat) : Option (List Byte) :=
  if ns.all (fun n => decide (n < 256)) then some (ns.map (BitVec.ofNat 8)) else none

/-- The end of a line, or the annotation of the expected response, which sets no field (R84). -/
def atEnd : List Token → Bool
  | [] => true
  | .arrow :: _ => true
  | _ => false

/-- A request line: the mnemonic sets HDR, the operands the fields of R70 (R83). -/
def requestLine (mnemonic : List Char) (ops : List Token) : Option (List Request) :=
  if mnemonic = ['C', 'M', 'D'] then
    match ops with
    | .lexeme c :: rest => if atEnd rest then (number c).map fun n => [encode (.cmd n)] else none
    | _ => none
  else if mnemonic = ['W', 'R', 'D'] then
    match bracketed ops with
    | some (ws, rest) => if atEnd rest then some [encode (.wrd ws)] else none
    | none => none
  else if mnemonic = ['R', 'D', 'D'] then
    match ops with
    | .lexeme c :: rest => if atEnd rest then (number c).map fun n => [encode (.rdd n)] else none
    | _ => none
  else if mnemonic = ['C', 'M', 'D', 'A'] then
    match ops with
    | .lexeme c :: .comma :: more =>
      match number c, bracketed more with
      | some n, some (ws, rest) => if atEnd rest then some [encode (.cmda n ws)] else none
      | _, _ => none
    | _ => none
  else if mnemonic = ['W', '2', 'B'] then
    match bracketed ops with
    | some (ws, rest) => if atEnd rest then some [encode (.w2b ws)] else none
    | none => none
  else if mnemonic = ['B', '2', 'W'] then
    match bracketed ops with
    | some (ns, rest) => if atEnd rest then (byteList ns).map fun bs => [encode (.b2w bs)] else none
    | none => none
  else if mnemonic = ['.', 'r', 'e', 'q'] then
    match ops with
    | .lexeme c :: rest =>
      match number c with
      | some n => if atEnd rest ∧ n < 2 ^ 16 then some [bareRequest (BitVec.ofNat 16 n)] else none
      | none => none
    | _ => none
  else if mnemonic = ['R', 'E', 'G', '_', 'W', 'R'] then
    match ops with
    | .lexeme a :: .comma :: .lexeme b :: rest =>
      match number a, number b with
      | some reg, some value => if atEnd rest then some ((Pseudo.regWr reg value).expand.map encode) else none
      | _, _ => none
    | _ => none
  else if mnemonic = ['R', 'E', 'G', '_', 'R', 'D'] then
    match ops with
    | .lexeme a :: rest =>
      if atEnd rest then (number a).map fun reg => (Pseudo.regRd reg).expand.map encode else none
    | _ => none
  else none

/-- The requests of a line: none for a blank or comment line, and `none` for a line that is no request. -/
def assembleLine (line : List Char) : Option (List Request) :=
  match tokens [] line with
  | [] => some []
  | .lexeme m :: ops => requestLine m ops
  | _ => none

/-- The requests of a host program, line by line. -/
def assemble : List (List Char) → Option (List Request)
  | [] => some []
  | line :: more =>
    match assembleLine line, assemble more with
    | some rs, some rest => some (rs ++ rest)
    | _, _ => none

end Sys2Proof.Machine
end

