-- ==== Sys2Proof/Machine/Run.lean ====
section
/-! DEFINITION. Runs of the controller (70_reset_and_hazards.md R182 to R185): how far a run has come, when it ends, what
is observed of it, and the launch of the next one. -/

namespace Sys2Proof.Machine

/-- `k` steps of the controller, as far as they go (`Host.Core.run` of the machine: `steps_eq_run`). -/
def steps : Nat → State → StepResult
  | 0, s => .next s
  | k + 1, s =>
    match step s with
    | .next t => steps k t
    | .fault f => .fault f
    | .refused f => .refused f

/-- The observation of a run (R182): the final TRACE, and the responses, one for each request. -/
structure Observation where
  trace : List BusEvent
  responses : List Response
  deriving DecidableEq, Repr

/-- How far a run has come. -/
inductive RunStatus where
  /-- The run is not over (R183). -/
  | going (s : State)
  /-- The run has ended, in its final state (R182). -/
  | ended (s : State)
  /-- A reset has ended the run without a final state (R183); `s` is the state the reset leaves. -/
  | cut (s : State)
  /-- A step of the run stopped: HOST cannot present its next request (00_scope.md R10; log 11), or the state is one
  that no run reaches (log 12). -/
  | stopped
  deriving DecidableEq, Repr

/-- Is the run over (R182): is the response to the last request given, and PHASE = IDLE? HOST presents each request
after the previous response, so with none left to present and none in progress the last one has been answered. -/
def State.runOver (s : State) : Bool := decide (s.phase = .idle ∧ s.env.requests = [])

/-- Is RESET_N = 0 in the coming step (10_state.md R25)? -/
def State.resetAsserted (s : State) : Bool := decide (s.env.resetN.head? = some false)

/-- The run from `s`, followed for at most `k` steps (R182, R183). The step that is its last decides: the run does not go
on past its end or past a reset. -/
def runFor : Nat → State → RunStatus
  | 0, s => if s.runOver then .ended s else .going s
  | k + 1, s =>
    if s.runOver then .ended s
    else
      match step s with
      | .next t => if s.resetAsserted then .cut t else runFor k t
      | .fault _ => .stopped
      | .refused _ => .stopped

/-- The final state of a run, which only a run that has ended has (R183). -/
def RunStatus.final : RunStatus → Option State
  | .ended s => some s
  | .going _ => none
  | .cut _ => none
  | .stopped => none

/-- The observation of a run that has ended (R182). -/
def RunStatus.observation (r : RunStatus) : Option Observation :=
  r.final.map fun s => { trace := s.trace, responses := s.responses }

/-- The launch of the next run of the same instance, from a state a reset has left (R182, R185; log 9): TRACE and the
list of responses are the new run's, and HOST presents the new program. -/
def State.nextRun (program : List Request) (s : State) : State :=
  { s with trace := [], responses := [], env := { s.env with requests := program } }

end Sys2Proof.Machine
end

