-- ==== Sys2Proof/Machine/Late.lean ====
section
/-! DEFINITION. The controller with 00_scope.md R19 to the letter: bookkeeping belongs to the step of the next primitive.
Between two steps the registers here are as the last primitive left them, and the bookkeeping due is named beside them.
10_state.md R30 (PHASE names the coming step), R31 and R33 (SENT and RXQ are what has gone out and come in so far), R34
(POLLS is the number of failed samples) and R41 (PHASE, FIDX and WIDX are the place) give the registers between two steps
with the bookkeeping done, so `Machine.step` does it at the end of the step. The two make the same run
(Obligations.BookkeepingPlaceIsUnobservable; log 1). -/

namespace Sys2Proof.Machine

/-- What the request an instruction stands for is made of. -/
def recipeOf (s : State) : Instr → Recipe
  | .cmd opc => cmdRecipe opc
  | .wrd words => wrdRecipe words
  | .rdd count => rddRecipe count s.frames.length
  | .cmda opc words => cmdaRecipe opc words
  | .w2b words => w2bRecipe words
  | .b2w bytes => b2wRecipe bytes

/-- The recipe a latched record is run by, an illegal header included (30_encoding.md R71). -/
def recipeOfRequest (s : State) (r : Request) : Recipe :=
  match decode r with
  | .instr i => recipeOf s i
  | .reservedBits _ => illegalRecipe r
  | .reservedOp _ => illegalRecipe r

/-- The controller between two steps, its bookkeeping still due. -/
structure Late where
  state : State
  due : Bookkeeping
  deriving DecidableEq, Repr

/-- What one step answers here. -/
abbrev LateResult := Host.Outcome Late Fault Refusal

/-- The state with the bookkeeping done. -/
def Late.caughtUp (l : Late) : State := l.due.perform l.state

/-- The end of a step: MOSI floats, and the bookkeeping is left to the next step. -/
def leaveDue : PrimitiveResult → LateResult
  | .next (s, b) => .next { state := floatMosi s, due := b }
  | .fault f => .fault f
  | .refused f => .refused f

/-- A step that leaves nothing to be done. -/
def nothingDue : StepResult → LateResult
  | .next s => .next { state := s, due := .none }
  | .fault f => .fault f
  | .refused f => .refused f

/-- One step with RESET_N = 1, the bookkeeping due already done. -/
def latePrimitive (s : State) : LateResult :=
  if s.phase = .idle then nothingDue (idleStep s)
  else
    match s.reqLatch with
    | none => .fault .noRequestLatched
    | some r => leaveDue (primitive (recipeOfRequest s r) s)

/-- One step (R19): the bookkeeping due, then the primitive. A reset comes first, and what was due is lost with the
request (70_reset_and_hazards.md R163, R164). -/
def lateStep (l : Late) : LateResult :=
  match l.state.env.resetN with
  | [] => latePrimitive l.caughtUp
  | level :: rest =>
    if level then latePrimitive (withResetN rest l.caughtUp)
    else .next { state := resetStep (withResetN rest l.state), due := .none }

/-- `k` such steps, as far as they go. -/
def lateSteps : Nat → Late → LateResult
  | 0, l => .next l
  | k + 1, l =>
    match lateStep l with
    | .next m => lateSteps k m
    | .fault f => .fault f
    | .refused f => .refused f

end Sys2Proof.Machine
end

