-- ==== Sys2Proof/Machine/Monitor.lean ====
section
/-! DEFINITION. Reading the bus trace (10_state.md R40): a bus monitor that decodes it into frames (30_encoding.md R72,
R77), the bytes on MOSI, and the events of whole frames (41_transport.md R106 to R111). Nothing here is state of the
controller. -/

namespace Sys2Proof.Machine

/-- What a bus monitor has read. -/
structure BusView where
  /-- The frames completed, each the words between its CSL and its CSH. -/
  closed : List (List Word)
  /-- The words completed in the open frame; `none` while CS_N is 1. -/
  current : Option (List Word)
  /-- The high byte of a word whose low byte is still to come. -/
  half : Option Byte
  /-- Did the last event show HRDY = 1? -/
  gated : Bool
  /-- Has every event had its place (10_state.md R43, 41_transport.md R109)? -/
  legal : Bool
  deriving DecidableEq, Repr

/-- Nothing read, CS_N = 1. -/
def BusView.start : BusView :=
  { closed := [], current := none, half := none, gated := false, legal := true }

/-- An event out of place. -/
def BusView.bad (v : BusView) : BusView := { v with legal := false }

/-- One event. CSL and CSH alternate; POLL and XFER stand inside a frame (R43); a word is two transfers, high byte
first, with a poll that read 1 just before it and none inside it (41_transport.md R108, R109). A byte whose partner a
reset cut is dropped with CSH (70_reset_and_hazards.md R164). -/
def BusView.event (v : BusView) (e : BusEvent) : BusView :=
  match e, v.current, v.half with
  | .csl, none, _ => { v with current := some [], half := none, gated := false }
  | .csh, some ws, _ => { v with closed := v.closed ++ [ws], current := none, half := none, gated := false }
  | .poll h, some _, none => { v with gated := h }
  | .xfer tx _, some _, none => if v.gated then { v with half := some tx, gated := false } else v.bad
  | .xfer tx _, some ws, some b => { v with current := some (ws ++ [wordOfBytes b tx]), half := none }
  | _, _, _ => v.bad

/-- The trace as a bus monitor reads it. -/
def busView (t : List BusEvent) : BusView := t.foldl BusView.event BusView.start

/-- The bytes on MOSI: the `tx` of the XFER events, in order (10_state.md R40). -/
def mosiBytes (t : List BusEvent) : List Byte :=
  t.filterMap fun e => match e with | .xfer tx _ => some tx | _ => none

/-- The kinds of frame, by preamble (30_encoding.md R77), with what follows the preamble. -/
inductive FrameKind where
  /-- A command; with arguments when the data phase stands in the same frame (ONE_FRAME, R76). -/
  | command (opcode : Word) (args : List Word)
  /-- Write data, n ≥ 1 words. -/
  | writeData (ws : List Word)
  /-- Read data, for a count n ≥ 1. -/
  | readData (n : Nat)
  deriving DecidableEq, Repr

/-- How a bus monitor reads the words of a frame (30_encoding.md R77); `none` for a frame of no kind. -/
def frameKind (ws : List Word) : Option FrameKind :=
  match ws with
  | p :: rest =>
    if p = cmdPreamble then
      match rest with
      | [c] => some (.command c [])
      | c :: q :: a :: args => if q = wrdPreamble then some (.command c (a :: args)) else none
      | _ => none
    else if p = wrdPreamble then
      match rest with
      | [] => none
      | w :: more => some (.writeData (w :: more))
    else if p = rddPreamble then
      if 2 ≤ rest.length ∧ rest = List.replicate rest.length placeholder then some (.readData (rest.length - 1))
      else none
    else none
  | [] => none

/-! The events of frames whose gates pass (41_transport.md R106, R108, R110). -/

/-- DEV's answers for one word: how many samples read 0 before the 1, and the two bytes. -/
structure WordDraw where
  fails : Nat
  rxHi : Byte
  rxLo : Byte
  deriving DecidableEq, Repr

/-- The HRDY samples of some words. -/
def hrdyOf (ds : List WordDraw) : List Bool :=
  ds.flatMap fun d => List.replicate d.fails false ++ [true]

/-- The MISO bytes of some words. -/
def misoOf (ds : List WordDraw) : List Byte := ds.flatMap fun d => [d.rxHi, d.rxLo]

/-- The words received (41_transport.md R108). -/
def receivedOf (ds : List WordDraw) : List Word := ds.map fun d => wordOfBytes d.rxHi d.rxLo

/-- A gated word: failed polls, a passing poll, the high byte, the low byte. -/
def wordEvents (w : Word) (d : WordDraw) : List BusEvent :=
  List.replicate d.fails (.poll false) ++ [.poll true, .xfer (hi w) d.rxHi, .xfer (lo w) d.rxLo]

/-- Gated words in order. -/
def wordsEvents (ws : List Word) (ds : List WordDraw) : List BusEvent :=
  (List.zipWith wordEvents ws ds).flatten

/-- A completed frame. -/
def frameEvents (ws : List Word) (ds : List WordDraw) : List BusEvent :=
  .csl :: wordsEvents ws ds ++ [.csh]

/-- Completed frames in order, each with its own words' answers. -/
def framesEvents : List (List Word) → List WordDraw → List BusEvent
  | [], _ => []
  | f :: fs, ds => frameEvents f (ds.take f.length) ++ framesEvents fs (ds.drop f.length)

/-- Frames cut by a timeout: the gates of `ds` pass, the next one reads 0 `t` times, and CSH ends the frame
(41_transport.md R106; 60_exceptions.md R147, R148). -/
def timeoutEvents (t : Nat) : List (List Word) → List WordDraw → List BusEvent
  | [], _ => []
  | f :: fs, ds =>
    if f.length ≤ ds.length then frameEvents f (ds.take f.length) ++ timeoutEvents t fs (ds.drop f.length)
    else .csl :: wordsEvents f ds ++ List.replicate t (.poll false) ++ [.csh]

/-- The words of all frames. -/
def wordCount (fs : List (List Word)) : Nat := (fs.map List.length).sum

/-- The steps of words whose gates pass: the polls and two transfers each. -/
def wordSteps (ds : List WordDraw) : Nat := (ds.map fun d => d.fails + 3).sum

end Sys2Proof.Machine
end

