-- ==== Sys2Proof/Safety.lean ====
section
/-! DEFINITION. What a safe run of the controller is, in the terms the claims use: the plan of a request, the invariant
of the sequencer (10_state.md R41 to R43), the trace as the wire image of the request (30_encoding.md R72; 41_transport.md
R110), and the words the claims share. -/

namespace Sys2Proof.Machine

/-- What validation finds for a request (60_exceptions.md R143). -/
def planOf (p : Params) : Instr → Check Plan
  | .cmd opc => cmdPlan opc p
  | .wrd words => wrdPlan words p
  | .rdd count => rddPlan count p
  | .cmda opc words => cmdaPlan opc words p
  | .w2b words => w2bPlan words p
  | .b2w bytes => b2wPlan bytes p

/-- What validation finds for a record, an illegal header included (30_encoding.md R71). -/
def planOfRequest (p : Params) (r : Request) : Check Plan :=
  match decode r with
  | .instr i => planOf p i
  | .reservedBits h => .raise .illegalRequest h.toNat
  | .reservedOp h => .raise .illegalRequest h.toNat

/-- What validation finds for the latched request; without one, nothing passes. -/
def State.plan (s : State) : Check Plan :=
  match s.reqLatch with
  | some r => planOfRequest s.params r
  | none => .raise .illegalRequest 0

/-- The length of RESULT_WORDS after an OK response (41_transport.md R122; 40_wire_codec.md R102). -/
def okWords : Instr → Nat
  | .rdd count => count
  | .b2w bytes => bytes.length / 2
  | .cmd _ => 0
  | .wrd _ => 0
  | .cmda _ _ => 0
  | .w2b _ => 0

/-- The length of RESULT_BYTES after an OK response (40_wire_codec.md R102). -/
def okBytes : Instr → Nat
  | .w2b words => 2 * words.length
  | .cmd _ => 0
  | .wrd _ => 0
  | .rdd _ => 0
  | .cmda _ _ => 0
  | .b2w _ => 0

/-- The lengths of an OK outcome fit the latched request; a request that decodes to none has no OK outcome. -/
def State.okLengths (s : State) : Bool :=
  match s.reqLatch.map decode with
  | some (.instr i) => decide (s.outcome.words.length = okWords i ∧ s.outcome.bytes.length = okBytes i)
  | _ => false

/-- The phases of a word: inside a frame, the next word named by (FIDX, WIDX). -/
def Phase.inWord (p : Phase) : Bool := p = .gate || p = .xferHi || p = .xferLo

/-- The phases in which CS_N = 0 (10_state.md R30, R43). -/
def Phase.selected (p : Phase) : Bool := p.inWord || p = .deassert

/-- The phases of the frames of a request, FRAMES built. -/
def Phase.framed (p : Phase) : Bool := p = .assert || p.selected

/-- The words of the frames before the one in progress. -/
def State.wordsBefore (s : State) : Nat := wordCount (s.frames.take s.fidx)

/-- The pins: CS_N is 0 exactly in the phases of a frame (10_state.md R42, R43), SCK idles (R28). -/
abbrev State.PinsOk (s : State) : Prop :=
  s.csN = !s.phase.selected ∧ s.sck = Config.sckIdle

/-- The latch: held from acceptance to respond (10_state.md R35), and only of what HOST can present (00_scope.md R10). -/
abbrev State.LatchOk (s : State) : Prop :=
  s.reqLatch.isSome = decide (s.phase ≠ .idle) ∧
    s.reqLatch.all (Request.fits s.params.hostValueWidth) = true ∧
    s.env.requests.all (Request.fits s.params.hostValueWidth) = true

/-- The plan: in CODEC and in a frame the latched request passed validation, and FRAMES is what BuildFrames gave it
(10_state.md R32; 41_transport.md R112). -/
abbrev State.PlanOk (s : State) : Prop :=
  (s.phase = .codec → s.plan = .pass .codec) ∧
    (s.phase.framed = true → s.plan = .pass (.frames s.frames))

/-- The place: (FIDX, WIDX) names a word of FRAMES, and RXQ and SENT count what is done (10_state.md R31, R33, R41). -/
abbrev State.PlaceOk (s : State) : Prop :=
  (s.phase.framed = true → s.fidx < s.frames.length) ∧
    (s.phase = .validate → s.fidx = 0 ∧ s.sent = 0) ∧
    (s.phase = .assert → s.sent = s.wordsBefore) ∧
    (s.phase.inWord = true → s.widx < s.frame.length) ∧
    (s.phase.selected = true → s.rxq.length = s.widx ∧ s.sent = s.wordsBefore + s.widx) ∧
    (s.phase = .deassert → s.outcome.status = .ok → s.widx = s.frame.length) ∧
    (s.phase = .deassert → s.outcome.status ≠ .ok → s.widx < s.frame.length)

/-- The outcome: OK with nothing until an error is raised or the result is known; no results with an error (10_state.md
R38; 60_exceptions.md R147); a timeout's detail is SENT (60_exceptions.md R137); and an OK outcome has the lengths its
request asks for. -/
abbrev State.OutcomeOk (s : State) : Prop :=
  (s.phase ≠ .deassert → s.phase ≠ .done → s.outcome = Response.blank) ∧
    (s.phase = .deassert → s.outcome = Response.blank ∨ s.outcome.status = .deviceNotResponding) ∧
    (s.outcome.status ≠ .ok → s.outcome.words = [] ∧ s.outcome.bytes = []) ∧
    (s.outcome.status = .deviceNotResponding → s.outcome.info = s.sent) ∧
    (s.phase = .done → s.outcome.status = .ok → s.okLengths = true)

/-- A gate in progress has not timed out (41_transport.md R106). -/
abbrev State.GateOk (s : State) : Prop :=
  s.phase = .gate → timedOut s.params s.polls = false

/-- The invariant of the controller: legal parameters, pins, latch, plan, place, outcome, gate, and a legal status code
(10_state.md R36: 5 to 7 are never written). -/
abbrev State.Inv (s : State) : Prop :=
  s.params.wf = true ∧ s.PinsOk ∧ s.LatchOk ∧ s.PlanOk ∧ s.PlaceOk ∧ s.OutcomeOk ∧ s.GateOk ∧ s.code.toNat ≤ 4

/-- The open frame as a bus monitor must see it at this place of the request: the words sent so far, and in XFER_LO
the high byte of the next. -/
abbrev State.OpenFrameOk (s : State) : Prop :=
  (busView s.trace).current = (if s.phase.selected then some (s.frame.take s.widx) else none) ∧
    (s.phase.selected = true → (busView s.trace).half = (if s.phase = .xferLo then s.word?.map hi else none)) ∧
    (s.phase = .xferHi → (busView s.trace).gated = true)

/-- The trace is legal (10_state.md R43, 41_transport.md R109), its open frame is the one in progress, and in the
phases of a frame its last FIDX closed frames are the first FIDX frames of the request (41_transport.md R110). -/
abbrev State.WireInv (s : State) : Prop :=
  (busView s.trace).legal = true ∧ s.OpenFrameOk ∧
    (s.phase.framed = true →
      s.fidx ≤ (busView s.trace).closed.length ∧
        (busView s.trace).closed.drop ((busView s.trace).closed.length - s.fidx) = s.frames.take s.fidx)

/-- The gates of these words pass: with a finite timeout T, fewer than T samples read 0 (41_transport.md R106). -/
abbrev gatesPass (p : Params) (ds : List WordDraw) : Prop :=
  ∀ d ∈ ds, timedOut p d.fails = false

/-- The state right after acceptance of `r` (10_state.md R45) on an idle bus, RESET_N not asserted from here on. -/
abbrev State.Accepted (s : State) (r : Request) : Prop :=
  s.phase = .validate ∧ s.reqLatch = some r ∧ s.fidx = 0 ∧ s.sent = 0 ∧ s.csN = true ∧ s.env.resetN = []

/-- DEV's coming draws begin with the answers to the words `ds`, and then with `more` HRDY samples. -/
abbrev State.DevAnswers (s : State) (ds : List WordDraw) (more : List Bool) : Prop :=
  hrdyOf ds ++ more <+: s.env.hrdy ∧ misoOf ds <+: s.env.miso

/-- `u` is `s` after the response `r` (10_state.md R44): IDLE and CS_N = 1 (R42), the host registers hold `r`, one
response was given, TRACE grew by `ev`, and parameters and the requests still to come are as before. -/
abbrev State.AnsweredAs (u s : State) (r : Response) (ev : List BusEvent) : Prop :=
  u.phase = .idle ∧ u.csN = true ∧
    u.code = r.status.code ∧ u.errInfo = r.info ∧ u.resultWords = r.words ∧ u.resultBytes = r.bytes ∧
    u.responses = s.responses ++ [r] ∧ u.trace = s.trace ++ ev ∧
    u.reqLatch = none ∧ u.frames = [] ∧ u.rxq = [] ∧ u.params = s.params ∧
    u.env.requests = s.env.requests ∧ u.env.resetN = []

/-- The state after the response `r` to a request that put nothing on the bus: only what `respond` writes differs from
the state in which the request stood accepted (10_state.md R44; 40_wire_codec.md R104). -/
def State.answered (s : State) (r : Response) : State :=
  { s with
    phase := .idle, code := r.status.code, errInfo := r.info, resultWords := r.words, resultBytes := r.bytes
    reqLatch := none, frames := [], rxq := [], outcome := Response.blank
    responses := s.responses ++ [r] }

/-- RESULT_WORDS of a transport request whose words get the answers `ds`: for RDD what was received after the echo word
and the dummy word (41_transport.md R124), for the others nothing (R112). -/
def returnedWords (ds : List WordDraw) : Instr → List Word
  | .rdd _ => (receivedOf ds).drop rddDropped
  | .cmd _ => []
  | .wrd _ => []
  | .cmda _ _ => []
  | .w2b _ => []
  | .b2w _ => []

/-- `t` is `u`, but for MOSI, which outside a transfer is any value (10_state.md R29), and the model's count of free
values (log 3, log 4). -/
abbrev State.Agrees (t u : State) : Prop :=
  ∃ (m : Bool) (n : Nat), t = { u with mosi := m, env := { u.env with draws := n } }

/-- `u` is `s` after the response `r` to a request that put nothing on the bus, but for MOSI and for RXHI, which
`respond` clears (41_transport.md R129; log 22). -/
abbrev State.AnsweredQuietly (u s : State) (r : Response) : Prop :=
  ∃ b : Byte, u.Agrees { s.answered r with rxhi := b }

/-- The length R143 compares with REQ_MAX_WORDS. -/
def limitedLength : Instr → Nat
  | .cmd _ => 0
  | .wrd words => words.length
  | .rdd count => count
  | .cmda _ words => words.length
  | .w2b words => words.length
  | .b2w bytes => (bytes.length + 1) / 2

/-- The list length or count as presented (60_exceptions.md R137). -/
def presentedLength : Instr → Nat
  | .cmd _ => 0
  | .wrd words => words.length
  | .rdd count => count
  | .cmda _ words => words.length
  | .w2b words => words.length
  | .b2w bytes => bytes.length

/-- The list RangeCheck is given (40_wire_codec.md R97). -/
def checkedValues : Instr → List Nat
  | .cmd opc => [opc]
  | .wrd words => words
  | .rdd _ => []
  | .cmda opc words => opc :: words
  | .w2b words => words
  | .b2w _ => []

/-- The request exceeds a finite REQ_MAX_WORDS (60_exceptions.md R138). -/
abbrev TooLong (p : Params) (i : Instr) : Prop := ∃ m ∈ p.reqMaxWords, m < limitedLength i

/-- `k` is the index of the first element above 0xFFFF (40_wire_codec.md R97). -/
abbrev FirstWide (vs : List Nat) (k : Nat) : Prop :=
  (∃ v ∈ vs[k]?, 0xFFFF < v) ∧ ∀ v ∈ vs.take k, v ≤ 0xFFFF

/-- Every host value the request turns into a word fits 16 bits. -/
abbrev InRange (i : Instr) : Prop := ∀ v ∈ checkedValues i, v ≤ 0xFFFF

/-- An event with the received byte hidden. -/
def BusEvent.eraseRx : BusEvent → BusEvent
  | .csl => .csl
  | .csh => .csh
  | .poll h => .poll h
  | .xfer tx _ => .xfer tx 0#8

/-- A word list with its values hidden; its length stays. -/
def eraseWords (ws : List Word) : List Word := List.replicate ws.length 0#16

/-- The state with what was and will be received on MISO hidden: RXQ, RXHI, the received bytes of TRACE, DEV's coming
bytes. Two states with one erasure agree on everything else. -/
def State.eraseRx (s : State) : State :=
  { s with
    rxq := eraseWords s.rxq, rxhi := 0#8, trace := s.trace.map BusEvent.eraseRx
    env := { s.env with miso := List.replicate s.env.miso.length 0#8 } }

/-- A response with the values of its words hidden. -/
def Response.eraseWords (r : Response) : Response := { r with words := Machine.eraseWords r.words }

/-- The state with the values of result words hidden as well. -/
def State.eraseRxAndWords (s : State) : State :=
  { s.eraseRx with
    outcome := s.outcome.eraseWords, resultWords := eraseWords s.resultWords
    responses := s.responses.map Response.eraseWords }

end Sys2Proof.Machine
end

