-- ==== Sys2Proof/Certificates/Slice0/Obligations.lean ====
section
/-! DEFINITION. The statements about the model. Where one rests on a choice of the model, its docstring names the log
entry. -/

open Sys2Proof Sys2Proof.Machine

/-! Encoding. -/

/-- R70: which operand each request reads; the header values are those of R69. -/
def Obligations.HeaderSelectsOperands : Prop :=
  ∀ r : Request,
    (r.hdr = 0x0000#16 → decode r = .instr (.cmd r.opc)) ∧
    (r.hdr = 0x0001#16 → decode r = .instr (.wrd r.words)) ∧
    (r.hdr = 0x0002#16 → decode r = .instr (.rdd r.count)) ∧
    (r.hdr = 0x0003#16 → decode r = .instr (.cmda r.opc r.words)) ∧
    (r.hdr = 0x0004#16 → decode r = .instr (.w2b r.words)) ∧
    (r.hdr = 0x0005#16 → decode r = .instr (.b2w r.bytes))

/-- Decoding the record of a request gives the request back, with every operand. -/
def Obligations.DecodeInvertsEncode : Prop :=
  ∀ i : Instr, decode (encode i) = .instr i

/-- The six table words, and some that select nothing. That a table word, which is a header alone, stands for a record
with zero and empty operands is the model's choice (log 14). -/
def Obligations.TableWordsDecode : Prop :=
  decodeTableWord 16 0x0000 = some (.cmd 0) ∧ decodeTableWord 16 0x0001 = some (.wrd []) ∧
  decodeTableWord 16 0x0002 = some (.rdd 0) ∧ decodeTableWord 16 0x0003 = some (.cmda 0 []) ∧
  decodeTableWord 16 0x0004 = some (.w2b []) ∧ decodeTableWord 16 0x0005 = some (.b2w []) ∧
  decodeTableWord 16 0x0006 = none ∧ decodeTableWord 16 0x0007 = none ∧
  decodeTableWord 16 0x0008 = none ∧ decodeTableWord 16 0xFFFF = none

/-- R71: a header above 0x0005, and no other, selects no request; it is refused with ILLEGAL_REQUEST and the header
value; MOSI and RXHI apart (log 4, log 22), nothing but the response changes: no bus activity. -/
def Obligations.IllegalHeaderIsRefused : Prop :=
  ∀ r : Request,
    ((∀ i, decode r ≠ .instr i) ↔ 0x0005 < r.hdr.toNat) ∧
    ∀ s : State, s.Accepted r → 0x0005 < r.hdr.toNat →
      ∃ u, steps 2 s = .next u ∧
        u.AnsweredQuietly s { status := .illegalRequest, words := [], bytes := [], info := r.hdr.toNat }

/-- A field the request does not use has no effect on a step (30_encoding.md R67): with the same header and used
operands latched, the step is the same but for what stays in the latch. -/
def Obligations.UnusedFieldsHaveNoEffect : Prop :=
  ∀ (s t : State) (r r' : Request) (i : Instr),
    s.phase ≠ .idle → s.reqLatch = some r → decode r = .instr i → decode r' = .instr i → step s = .next t →
    ∃ t', step { s with reqLatch := some r' } = .next t' ∧
      { t with reqLatch := none } = { t' with reqLatch := none }

/-- R86 and R87: the expansions of the pseudo-requests. -/
def Obligations.PseudoRequestsExpand : Prop :=
  ∀ reg value : Nat,
    (Pseudo.regWr reg value).expand = [.cmda 0x0011 [reg, value]] ∧
    (Pseudo.regRd reg).expand = [.cmda 0x0010 [reg], .rdd 1]

/-- Lines of the request syntax (30_encoding.md R83, R84); white space is log 19. -/
def Obligations.RequestLinesAssemble : Prop :=
  assembleLine "CMD 0x0302".toList = some [encode (.cmd 0x0302)] ∧
  assembleLine "WRD [0x1234, 1]".toList = some [encode (.wrd [0x1234, 1])] ∧
  assembleLine "RDD 1 -> OK [0xABCD]".toList = some [encode (.rdd 1)] ∧
  assembleLine "CMDA 0x0011, [0x1234, 0x0001] ; a write".toList = some [encode (.cmda 0x0011 [0x1234, 1])] ∧
  assembleLine "W2B []".toList = some [encode (.w2b [])] ∧
  assembleLine "B2W [0x06, 44]".toList = some [encode (.b2w [0x06#8, 0x2C#8])] ∧
  assembleLine ".req 0x0007".toList = some [bareRequest 0x0007#16]

/-- A step runs the latched request: outside IDLE, RESET_N not asserted, a latched record that selects `i` is run by
`exec i`; the level of RESET_N is used up first when there is one. -/
def Obligations.StepRunsLatchedRequest : Prop :=
  ∀ (s : State) (r : Request) (i : Instr),
    s.phase ≠ .idle → s.reqLatch = some r → decode r = .instr i →
    (s.env.resetN = [] → step s = exec i s) ∧
    (∀ rest, s.env.resetN = true :: rest → step s = exec i (withResetN rest s))

/-- The state in which a table word is placed has it accepted, and the next step runs it (log 14). -/
def Obligations.PlacedWordRunsNext : Prop :=
  ∀ (s : State) (w : Nat) (i : Instr), decodeTableWord 16 w = some i →
    (s.withFetchWord 16 w).phase = .validate ∧
    step (s.withFetchWord 16 w) = exec i (s.withFetchWord 16 w)

/-! The wire. -/

/-- R51, its first two sentences: MSB first both ways; and the waveform of one transfer as the rest of R51 and R28 give
it (general knowledge, log 17): eight cycles, SCK idle while the bits are driven, both sides sampling on the leading
edge. -/
def Obligations.ByteGoesMsbFirst : Prop :=
  ∀ tx rx : Byte,
    (byteWave tx rx).length = 16 ∧
    (byteWave tx rx).map PinLevels.sck = (List.replicate 8 [false, true]).flatten ∧
    ∀ k : Nat, k < 8 →
      ((byteWave tx rx)[2 * k]?.map PinLevels.mosi = some (tx.getLsbD (7 - k)) ∧
        (byteWave tx rx)[2 * k + 1]?.map PinLevels.mosi = some (tx.getLsbD (7 - k))) ∧
      ((byteWave tx rx)[2 * k]?.map PinLevels.miso = some (rx.getLsbD (7 - k)) ∧
        (byteWave tx rx)[2 * k + 1]?.map PinLevels.miso = some (rx.getLsbD (7 - k)))

/-- R101: the two round trips of the codec. -/
def Obligations.CodecRoundTrips : Prop :=
  (∀ vs : List Nat, (∀ v ∈ vs, v ≤ 0xFFFF) →
    ∃ ws ws', rangeCheck vs = .pass ws ∧ bytesToWords (wordsToBytes ws) = .pass ws' ∧
      ws'.map BitVec.toNat = vs) ∧
  (∀ bs : List Byte, bs.length % 2 = 0 → ∃ ws, bytesToWords bs = .pass ws ∧ wordsToBytes ws = bs) ∧
  (∀ (vs : List Nat) (v : Nat), v ∈ vs → 0xFFFF < v →
    ∃ k, FirstWide vs k ∧ rangeCheck vs = .raise .rangeError k)

/-- R102: lengths, and where word `i` of a stream stands. -/
def Obligations.CodecLengthsAndPlaces : Prop :=
  (∀ ws : List Word, (wordsToBytes ws).length = 2 * ws.length) ∧
  (∀ bs : List Byte, bs.length % 2 = 0 →
    ∃ ws, bytesToWords bs = .pass ws ∧ ws.length = bs.length / 2 ∧
      ∀ (i : Nat) (w : Word), ws[i]? = some w → bs[2 * i]? = some (hi w) ∧ bs[2 * i + 1]? = some (lo w)) ∧
  (∀ (ws : List Word) (i : Nat) (w : Word), ws[i]? = some w →
    (wordsToBytes ws)[2 * i]? = some (hi w) ∧ (wordsToBytes ws)[2 * i + 1]? = some (lo w))

/-- R119: the read frame, n + 2 words and 2n + 4 bytes. -/
def Obligations.ReadFrameContents : Prop :=
  ∀ n : Nat, 1 ≤ n →
    readFrame n = [0x1000#16] ++ List.replicate (n + 1) 0x0000#16 ∧
    (readFrame n).length = n + 2 ∧ (wordsToBytes (readFrame n)).length = 2 * n + 4

/-- R111: the events of a completed frame of k words. -/
def Obligations.FrameEventCounts : Prop :=
  ∀ (ws : List Word) (ds : List WordDraw), ds.length = ws.length →
    mosiBytes (frameEvents ws ds) = wordsToBytes ws ∧
    (mosiBytes (frameEvents ws ds)).length = 2 * ws.length ∧
    (frameEvents ws ds).count .csl = 1 ∧ (frameEvents ws ds).count .csh = 1 ∧
    (frameEvents ws ds).count (.poll true) = ws.length ∧
    ws.length ≤ (frameEvents ws ds).count (.poll true) + (frameEvents ws ds).count (.poll false)

/-- Every frame a request that passes validation builds is read by a bus monitor as the frame it stands for
(30_encoding.md R77), and its first word is one of the three preambles (R81). -/
def Obligations.FramesAreReadByPreamble : Prop :=
  ∀ (p : Params) (i : Instr) (fs : List (List Word)), planOf p i = .pass (.frames fs) →
    (∀ f ∈ fs, f.head? = some 0x6000#16 ∨ f.head? = some 0x0000#16 ∨ f.head? = some 0x1000#16) ∧
    fs.map frameKind =
      match i with
      | .cmd c => [some (.command (BitVec.ofNat 16 c) [])]
      | .wrd ws => if ws = [] then [] else [some (.writeData (ws.map (BitVec.ofNat 16)))]
      | .rdd n => if n = 0 then [] else [some (.readData n)]
      | .cmda c ws =>
        if ws = [] then [some (.command (BitVec.ofNat 16 c) [])]
        else if p.cmdaFraming = .twoFrames then
          [some (.command (BitVec.ofNat 16 c) []), some (.writeData (ws.map (BitVec.ofNat 16)))]
        else [some (.command (BitVec.ofNat 16 c) (ws.map (BitVec.ofNat 16)))]
      | .w2b _ => []
      | .b2w _ => []

/-- A bus monitor reads the events of completed frames as exactly those frames, in order (30_encoding.md R72, R77), and
finds every event in its place (10_state.md R43, 41_transport.md R109). -/
def Obligations.MonitorReadsFrames : Prop :=
  ∀ (fs : List (List Word)) (ds : List WordDraw) (t : List BusEvent),
    ds.length = wordCount fs → (busView t).legal = true → (busView t).current = none →
    (busView (t ++ framesEvents fs ds)).closed = (busView t).closed ++ fs ∧
    (busView (t ++ framesEvents fs ds)).current = none ∧
    (busView (t ++ framesEvents fs ds)).legal = true

/-! Validation. -/

/-- R143: the checks in their order, the first failure raised; past them a codec request goes to CODEC and a transport
request to its frames. On an accepted request and an idle bus a `raise` leads to DONE (R147). -/
def Obligations.ValidationRaisesFirstFailure : Prop :=
  ∀ (s : State) (r : Request), s.Accepted r →
    ((r.hdr.extractLsb' 3 13 ≠ 0#13 ∨ r.hdr.extractLsb' 0 3 = 0b110#3 ∨ r.hdr.extractLsb' 0 3 = 0b111#3) →
      ∃ t, step s = .next t ∧ t.Agrees { s with
        outcome := { status := .illegalRequest, words := [], bytes := [], info := r.hdr.toNat }, phase := .done }) ∧
    ∀ i, decode r = .instr i →
      (TooLong s.params i →
        ∃ t, exec i s = .next t ∧ t.Agrees { s with
          outcome := { status := .illegalRequest, words := [], bytes := [], info := presentedLength i }
          phase := .done }) ∧
      (¬ TooLong s.params i → ∀ k, FirstWide (checkedValues i) k →
        ∃ t, exec i s = .next t ∧ t.Agrees { s with
          outcome := { status := .rangeError, words := [], bytes := [], info := k }, phase := .done }) ∧
      (¬ TooLong s.params i → ∀ bs, i = .b2w bs → bs.length % 2 = 1 →
        ∃ t, exec i s = .next t ∧ t.Agrees { s with
          outcome := { status := .formatError, words := [], bytes := [], info := bs.length }, phase := .done }) ∧
      (¬ TooLong s.params i → InRange i →
        (∀ ws, i = .w2b ws → ∃ t, exec i s = .next t ∧ t.Agrees { s with phase := .codec }) ∧
        (∀ bs, i = .b2w bs → bs.length % 2 = 0 →
          ∃ t, exec i s = .next t ∧ t.Agrees { s with phase := .codec }) ∧
        ∀ fs, planOf s.params i = .pass (.frames fs) →
          ∃ t, exec i s = .next t ∧ t.Agrees { s with
            frames := fs, outcome := Response.blank, phase := if fs = [] then .done else .assert })

/-- R145: a request refused at validation, an illegal header included, appends no event and samples nothing: it is
answered by the next step, and, MOSI and RXHI apart (log 4, log 22), only what `respond` writes has changed. -/
def Obligations.RefusalLeavesTheBusAlone : Prop :=
  ∀ (s : State) (r : Request) (e : Status) (info : Nat),
    s.Accepted r → planOfRequest s.params r = .raise e info →
    ∃ t u, step s = .next t ∧ t.trace = s.trace ∧ t.csN = true ∧ t.env.hrdy = s.env.hrdy ∧ t.env.miso = s.env.miso ∧
      step t = .next u ∧ u.trace = s.trace ∧
      u.AnsweredQuietly s { status := e, words := [], bytes := [], info := info }

/-! The requests, whole. -/

/-- R99: W2B within REQ_MAX_WORDS and in range answers OK with the bytes; too long, ILLEGAL_REQUEST; out of range,
RANGE_ERROR at the first such index. In every case, MOSI and RXHI apart (log 4, log 22), only what `respond`
writes differs in the end: no bus activity (R95). -/
def Obligations.W2bRuns : Prop :=
  ∀ (s : State) (r : Request) (ws : List Nat), s.Accepted r → decode r = .instr (.w2b ws) →
    ∃ t, exec (.w2b ws) s = .next t ∧
      (¬ TooLong s.params (Instr.w2b ws) → (∀ v ∈ ws, v ≤ 0xFFFF) →
        ∃ u, steps 2 t = .next u ∧ u.AnsweredQuietly s
          { status := .ok, words := [], bytes := wordsToBytes (ws.map (BitVec.ofNat 16)), info := 0 }) ∧
      (TooLong s.params (Instr.w2b ws) →
        ∃ u, steps 1 t = .next u ∧ u.AnsweredQuietly s
          { status := .illegalRequest, words := [], bytes := [], info := ws.length }) ∧
      (¬ TooLong s.params (Instr.w2b ws) → ∀ k, FirstWide ws k →
        ∃ u, steps 1 t = .next u ∧ u.AnsweredQuietly s
          { status := .rangeError, words := [], bytes := [], info := k })

/-- R100: B2W within REQ_MAX_WORDS and of even length answers OK with the words; too long, ILLEGAL_REQUEST; odd,
FORMAT_ERROR with the length. In every case, MOSI and RXHI apart (log 4, log 22), only what `respond`
writes differs in the end: no bus activity (R95). -/
def Obligations.B2wRuns : Prop :=
  ∀ (s : State) (r : Request) (bs : List Byte), s.Accepted r → decode r = .instr (.b2w bs) →
    ∃ t, exec (.b2w bs) s = .next t ∧
      (¬ TooLong s.params (Instr.b2w bs) → bs.length % 2 = 0 →
        ∃ ws u, ws.length = bs.length / 2 ∧ wordsToBytes ws = bs ∧
          steps 2 t = .next u ∧ u.AnsweredQuietly s { status := .ok, words := ws, bytes := [], info := 0 }) ∧
      (TooLong s.params (Instr.b2w bs) →
        ∃ u, steps 1 t = .next u ∧ u.AnsweredQuietly s
          { status := .illegalRequest, words := [], bytes := [], info := bs.length }) ∧
      (¬ TooLong s.params (Instr.b2w bs) → bs.length % 2 = 1 →
        ∃ u, steps 1 t = .next u ∧ u.AnsweredQuietly s
          { status := .formatError, words := [], bytes := [], info := bs.length })

/-- R114: a CMD whose gates pass, however often HRDY reads 0 first and whatever MISO carries, sends exactly the four
bytes `60 00 hi(c) lo(c)` in one frame between CSL and CSH, and is answered OK. -/
def Obligations.CmdRuns : Prop :=
  ∀ (s : State) (r : Request) (c : Nat) (d0 d1 : WordDraw),
    s.Accepted r → decode r = .instr (.cmd c) → c ≤ 0xFFFF →
    gatesPass s.params [d0, d1] → s.DevAnswers [d0, d1] [] →
    ∃ t u, exec (.cmd c) s = .next t ∧ steps (wordSteps [d0, d1] + 3) t = .next u ∧
      u.AnsweredAs s Response.blank (frameEvents [0x6000#16, BitVec.ofNat 16 c] [d0, d1]) ∧
      mosiBytes (frameEvents [0x6000#16, BitVec.ofNat 16 c] [d0, d1]) =
        [0x60#8, 0x00#8, hi (BitVec.ofNat 16 c), lo (BitVec.ofNat 16 c)]

/-- R118: a WRD of one word or more whose gates pass sends `00 00` and the bytes of the words in one frame. -/
def Obligations.WrdRuns : Prop :=
  ∀ (s : State) (r : Request) (ws : List Nat) (ds : List WordDraw),
    s.Accepted r → decode r = .instr (.wrd ws) → ws ≠ [] → (∀ v ∈ ws, v ≤ 0xFFFF) →
    ¬ TooLong s.params (Instr.wrd ws) → ds.length = ws.length + 1 →
    gatesPass s.params ds → s.DevAnswers ds [] →
    ∃ t u, exec (.wrd ws) s = .next t ∧ steps (wordSteps ds + 3) t = .next u ∧
      u.AnsweredAs s Response.blank (frameEvents (0x0000#16 :: ws.map (BitVec.ofNat 16)) ds) ∧
      mosiBytes (frameEvents (0x0000#16 :: ws.map (BitVec.ofNat 16)) ds) =
        0x00#8 :: 0x00#8 :: wordsToBytes (ws.map (BitVec.ofNat 16))

/-- R117 and R121: WRD [] and RDD 0 pass validation, put nothing on the bus and answer OK with empty results: MOSI and
RXHI apart (log 4, log 22), only what `respond` writes differs in the end. -/
def Obligations.EmptyTransfersAreNoOps : Prop :=
  ∀ (s : State) (r : Request), s.Accepted r →
    ∀ i, (i = Instr.wrd [] ∨ i = Instr.rdd 0) → decode r = .instr i →
      ∃ t u, exec i s = .next t ∧ steps 1 t = .next u ∧ u.trace = s.trace ∧ u.AnsweredQuietly s Response.blank

/-- R122 and R124: an RDD of count n ≥ 1 whose gates pass sends the preamble and n + 1 placeholders, and answers OK with
exactly the n words received after the echo word and the dummy word, whatever those two are. -/
def Obligations.RddRuns : Prop :=
  ∀ (s : State) (r : Request) (n : Nat) (echo dummy : WordDraw) (ds : List WordDraw),
    s.Accepted r → decode r = .instr (.rdd n) → 1 ≤ n → ¬ TooLong s.params (Instr.rdd n) → ds.length = n →
    gatesPass s.params (echo :: dummy :: ds) → s.DevAnswers (echo :: dummy :: ds) [] →
    ∃ t u, exec (.rdd n) s = .next t ∧
      steps (wordSteps (echo :: dummy :: ds) + 3) t = .next u ∧
      u.AnsweredAs s { status := .ok, words := receivedOf ds, bytes := [], info := 0 }
        (frameEvents (0x1000#16 :: List.replicate (n + 1) 0x0000#16) (echo :: dummy :: ds)) ∧
      u.resultWords.length = n

/-- R122: from every state that meets the invariant, an RDD that responds OK returns exactly n words, for every count n,
0 included; and its frame has n + 2 words. -/
def Obligations.RddReturnsExactlyN : Prop :=
  ∀ (s : State) (r : Request) (n : Nat),
    s.Inv → s.reqLatch = some r → decode r = .instr (.rdd n) → s.env.resetN = [] →
    (s.phase = .done → s.outcome.status = .ok →
      ∃ t, step s = .next t ∧ t.phase = .idle ∧ t.code = 0#3 ∧ t.resultWords.length = n ∧ t.resultBytes = []) ∧
    (s.phase.framed = true → 1 ≤ n ∧ s.frames.length = 1 ∧ s.frame.length = n + 2)

/-- R126 and R131: a CMDA with arguments whose gates pass sends two frames under TWO_FRAMES, and under ONE_FRAME one
frame with the data preamble inside; answered OK. -/
def Obligations.CmdaRuns : Prop :=
  ∀ (s : State) (r : Request) (c : Nat) (a : List Nat) (cs ds : List WordDraw),
    s.Accepted r → decode r = .instr (.cmda c a) → a ≠ [] → c ≤ 0xFFFF → (∀ v ∈ a, v ≤ 0xFFFF) →
    ¬ TooLong s.params (Instr.cmda c a) → cs.length = 2 → ds.length = a.length + 1 →
    gatesPass s.params (cs ++ ds) → s.DevAnswers (cs ++ ds) [] →
    ∃ t u, exec (.cmda c a) s = .next t ∧
      (s.params.cmdaFraming = .twoFrames →
        steps (wordSteps (cs ++ ds) + 5) t = .next u ∧
        u.AnsweredAs s Response.blank
          (frameEvents [0x6000#16, BitVec.ofNat 16 c] cs ++
            frameEvents (0x0000#16 :: a.map (BitVec.ofNat 16)) ds)) ∧
      (s.params.cmdaFraming = .oneFrame →
        steps (wordSteps (cs ++ ds) + 3) t = .next u ∧
        u.AnsweredAs s Response.blank
          (frameEvents (0x6000#16 :: BitVec.ofNat 16 c :: 0x0000#16 :: a.map (BitVec.ofNat 16)) (cs ++ ds)))

/-- R115 and R127: CMDA without arguments is CMD: the same step from every state in which one of them is in progress,
under both framings. -/
def Obligations.CmdIsCmdaWithoutArguments : Prop :=
  ∀ (c : Nat) (s : State), s.phase ≠ .idle → exec (.cmd c) s = exec (.cmda c []) s

/-- R112: any transport request that passes validation: BuildFrames' frames go out whole and in order, whatever DEV
answers, and the response is OK with the words received but two for a read request, else with nothing. -/
def Obligations.TransportRequestsRunWhole : Prop :=
  ∀ (s : State) (r : Request) (i : Instr) (fs : List (List Word)) (ds : List WordDraw),
    s.Accepted r → decode r = .instr i → planOf s.params i = .pass (.frames fs) →
    ds.length = wordCount fs → gatesPass s.params ds → s.DevAnswers ds [] →
    ∃ t u, exec i s = .next t ∧ steps (wordSteps ds + 2 * fs.length + 1) t = .next u ∧
      u.AnsweredAs s { status := .ok, words := returnedWords ds i, bytes := [], info := 0 } (framesEvents fs ds) ∧
      u.env.hrdy = s.env.hrdy.drop (hrdyOf ds).length ∧ u.env.miso = s.env.miso.drop (misoOf ds).length

/-- R141, R147 and R148: when the gate of word number `ds.length` of the request reads 0 for T samples, the words before
it have gone out whole, the T polls and CSH end the frame, and the response is DEVICE_NOT_RESPONDING with that number
and empty results. -/
def Obligations.TimeoutEndsTheRequest : Prop :=
  ∀ (s : State) (r : Request) (i : Instr) (fs : List (List Word)) (ds : List WordDraw) (T : Nat),
    s.Accepted r → decode r = .instr i → planOf s.params i = .pass (.frames fs) →
    s.params.readyTimeoutPolls = some T → 1 ≤ T →
    ds.length < wordCount fs → gatesPass s.params ds → s.DevAnswers ds (List.replicate T false) →
    ∃ t u k, exec i s = .next t ∧ steps k t = .next u ∧
      u.AnsweredAs s { status := .deviceNotResponding, words := [], bytes := [], info := ds.length }
        (timeoutEvents T fs ds)

/-! Single steps. -/

/-- R45: acceptance, with the frame of the step: the latch, the counters and PHASE change, no bus event is appended; only
a presented request is accepted, and only in IDLE. HOST is the list of requests it presents (log 7). -/
def Obligations.AcceptanceLatchesTheRequest : Prop :=
  ∀ s : State, s.env.resetN = [] →
    (s.phase = .idle → s.env.requests = [] → ∃ t, step s = .next t ∧ t.Agrees s) ∧
    (∀ r rest, s.phase = .idle → s.env.requests = r :: rest → r.fits s.params.hostValueWidth = true →
      ∃ t, step s = .next t ∧ t.reqLatch = some r ∧ t.fidx = 0 ∧ t.widx = 0 ∧ t.sent = 0 ∧ t.polls = 0 ∧
        t.phase = .validate ∧ t.trace = s.trace ∧ t.csN = s.csN ∧ t.sck = s.sck ∧
        t.frames = s.frames ∧ t.rxq = s.rxq ∧ t.rxhi = s.rxhi ∧ t.code = s.code ∧ t.errInfo = s.errInfo ∧
        t.resultWords = s.resultWords ∧ t.resultBytes = s.resultBytes ∧ t.responses = s.responses ∧
        t.params = s.params ∧ t.env.requests = rest ∧ t.env.hrdy = s.env.hrdy ∧ t.env.miso = s.env.miso) ∧
    (∀ t, s.phase ≠ .idle → step s = .next t → t.env.requests = s.env.requests)

/-- R44: the step of DONE, for each of the six requests, with its frame: what `respond` writes, no bus event, and every
other piece of state as it was, but for RXHI, which 41_transport.md R129 has it clear too
(RespondClearsWhatWasReceived). The arguments of `respond` stand in the outcome field (log 6). -/
def Obligations.RespondWritesTheRegisters : Prop :=
  ∀ (i : Instr) (s : State), s.phase = .done →
    ∃ t, exec i s = .next t ∧
      t.code = s.outcome.status.code ∧ t.errInfo = (if s.outcome.status = .ok then 0 else s.outcome.info) ∧
      t.resultWords = s.outcome.words ∧ t.resultBytes = s.outcome.bytes ∧
      t.reqLatch = none ∧ t.frames = [] ∧ t.rxq = [] ∧ t.phase = .idle ∧ t.busy = false ∧
      t.trace = s.trace ∧ t.csN = s.csN ∧ t.sck = s.sck ∧ t.fidx = s.fidx ∧ t.widx = s.widx ∧
      t.sent = s.sent ∧ t.polls = s.polls ∧ t.params = s.params ∧
      t.env.requests = s.env.requests ∧ t.env.hrdy = s.env.hrdy ∧ t.env.miso = s.env.miso ∧
      ∃ r, t.responses = s.responses ++ [r] ∧ r.status = s.outcome.status ∧ r.words = t.resultWords ∧
        r.bytes = t.resultBytes ∧ r.info = t.errInfo

/-- What `respond` does to the received bytes, for each of the six requests: RXQ and RXHI are cleared
(41_transport.md R129); that RXHI is cleared although 10_state.md R44 does not list it, and to 0, is log 22. -/
def Obligations.RespondClearsWhatWasReceived : Prop :=
  ∀ (i : Instr) (s : State), s.phase = .done → ∃ t, exec i s = .next t ∧ t.rxq = [] ∧ t.rxhi = 0#8

/-- R106: one sample of a gate, for each of the six requests: 1 passes; 0 counts, and at T failed samples raises
DEVICE_NOT_RESPONDING with SENT, CS_N still to be deasserted (R147). HRDY as DEV scripts it; the frame of the step is in
`StepChangesOnlyItsOwn`. That POLLS is counted and the error raised at the end of the very step of the poll is log 1
(00_scope.md R19 puts it in the step of the next primitive). -/
def Obligations.GateSamplesReady : Prop :=
  ∀ (i : Instr) (s : State) (h : Bool) (more : List Bool),
    s.phase = .gate → s.csN = false → s.env.hrdy = h :: more →
    ∃ t, exec i s = .next t ∧ t.trace = s.trace ++ [.poll h] ∧ t.env.hrdy = more ∧ t.csN = false ∧
      t.widx = s.widx ∧ t.fidx = s.fidx ∧ t.sent = s.sent ∧
      (h = true → t.phase = .xferHi ∧ t.outcome = s.outcome) ∧
      (h = false → t.polls = s.polls + 1) ∧
      (h = false → (∀ T ∈ s.params.readyTimeoutPolls, s.polls + 1 < T) → t.phase = .gate ∧ t.outcome = s.outcome) ∧
      (h = false → ∀ T ∈ s.params.readyTimeoutPolls, T ≤ s.polls + 1 →
        t.phase = .deassert ∧
        t.outcome = { status := .deviceNotResponding, words := [], bytes := [], info := s.sent })

/-- R108: the two transfers of a word, for each of the six requests, on the word (FIDX, WIDX) names: high byte, low
byte, the received word into RXQ, SENT and WIDX counted; then the next gate or the end of the frame (R110). That they
are counted at the end of the XFER_LO step (10_state.md R31, R33, R41) is log 1 (00_scope.md R19 puts it in the step of
the next primitive). -/
def Obligations.WordGoesHighByteFirst : Prop :=
  ∀ (i j : Instr) (s : State) (w : Word) (b0 b1 : Byte) (more : List Byte),
    s.phase = .xferHi → s.word? = some w → s.env.miso = b0 :: b1 :: more →
    ∃ t u, exec i s = .next t ∧ exec j t = .next u ∧
      t.phase = .xferLo ∧ t.rxhi = b0 ∧ t.trace = s.trace ++ [.xfer (hi w) b0] ∧ t.sent = s.sent ∧
      u.trace = s.trace ++ [.xfer (hi w) b0, .xfer (lo w) b1] ∧ u.rxq = s.rxq ++ [b0 ++ b1] ∧
      u.sent = s.sent + 1 ∧ u.widx = s.widx + 1 ∧ u.env.miso = more ∧ u.env.hrdy = s.env.hrdy ∧
      (s.widx + 1 < s.frame.length → u.phase = .gate ∧ u.polls = 0) ∧
      (s.frame.length ≤ s.widx + 1 → u.phase = .deassert)

/-- R110 at the edges of a frame, for each of the six requests: SetCS(0) starts it with WIDX 0 and RXQ empty; SetCS(1)
ends it, and without an error the next frame or, after the last, DONE follows with FIDX counted; after an error DONE
follows at once (60_exceptions.md R147). That WIDX, RXQ and POLLS are cleared at the end of the ASSERT step and FIDX is
counted at the end of the DEASSERT step (10_state.md R31, R41) is log 1 (00_scope.md R19 puts it in the step of the next
primitive). -/
def Obligations.ChipSelectFramesTheWords : Prop :=
  ∀ (i : Instr) (s : State),
    (s.phase = .assert → s.csN = true →
      ∃ t, exec i s = .next t ∧ t.csN = false ∧ t.trace = s.trace ++ [.csl] ∧ t.phase = .gate ∧
        t.widx = 0 ∧ t.rxq = [] ∧ t.polls = 0 ∧ t.fidx = s.fidx ∧ t.sent = s.sent) ∧
    (s.phase = .deassert → s.csN = false →
      ∃ t, exec i s = .next t ∧ t.csN = true ∧ t.trace = s.trace ++ [.csh] ∧
        (s.outcome.status ≠ .ok → t.phase = .done ∧ t.outcome = s.outcome ∧ t.fidx = s.fidx) ∧
        (s.outcome.status = .ok → t.fidx = s.fidx + 1) ∧
        (s.outcome.status = .ok → s.fidx + 1 < s.frames.length → t.phase = .assert ∧ t.outcome = s.outcome) ∧
        (s.outcome.status = .ok → s.frames.length ≤ s.fidx + 1 →
          t.phase = .done ∧ t.outcome.status = .ok ∧ t.outcome.bytes = []))

/-- The frame of every step of every request: which phase may change which piece of state. MOSI is not named: outside a
transfer it is any value (10_state.md R29, log 4). Which step changes SENT, WIDX, FIDX, POLLS and RXQ is log 1
(00_scope.md R19 puts the change in the step of the next primitive); that DONE changes RXHI is log 22. -/
def Obligations.StepChangesOnlyItsOwn : Prop :=
  ∀ (i : Instr) (s t : State), exec i s = .next t →
    (t.params = s.params ∧ t.env.requests = s.env.requests ∧ t.env.resetN = s.env.resetN) ∧
    (s.phase ≠ .done → t.code = s.code ∧ t.errInfo = s.errInfo ∧ t.resultWords = s.resultWords ∧
      t.resultBytes = s.resultBytes ∧ t.responses = s.responses) ∧
    (s.phase ≠ .idle → s.phase ≠ .done → t.reqLatch = s.reqLatch) ∧
    (s.phase ≠ .validate → s.phase ≠ .done → t.frames = s.frames) ∧
    (s.phase ≠ .assert → s.phase ≠ .deassert → t.csN = s.csN) ∧
    (s.phase ≠ .xferHi → s.phase ≠ .xferLo → t.sck = s.sck ∧ t.env.miso = s.env.miso) ∧
    (s.phase ≠ .gate → t.env.hrdy = s.env.hrdy) ∧
    (s.phase ≠ .xferHi → s.phase ≠ .done → t.rxhi = s.rxhi) ∧
    (s.phase ≠ .assert → s.phase ≠ .xferLo → s.phase ≠ .done → t.rxq = s.rxq) ∧
    (s.phase ≠ .idle → s.phase ≠ .xferLo → t.sent = s.sent) ∧
    (s.phase ≠ .idle → s.phase ≠ .deassert → t.fidx = s.fidx) ∧
    (s.phase ≠ .idle → s.phase ≠ .assert → s.phase ≠ .xferLo → t.widx = s.widx) ∧
    (s.phase ≠ .idle → s.phase ≠ .assert → s.phase ≠ .gate → s.phase ≠ .xferLo → t.polls = s.polls) ∧
    (s.phase = .idle ∨ s.phase = .validate ∨ s.phase = .codec ∨ s.phase = .done → t.trace = s.trace)

/-- R40: what one step of the controller does to TRACE: one event of the kind its phase names, or none; a reset may add
a CSH (70_reset_and_hazards.md R164). -/
def Obligations.StepAppendsItsOneEvent : Prop :=
  ∀ s t : State, step s = .next t →
    t.trace = s.trace ∨
    (∃ e, t.trace = s.trace ++ [e] ∧
      ((e = .csl ∧ s.phase = .assert ∧ s.csN = true ∧ t.csN = false) ∨
       (e = .csh ∧ s.csN = false ∧ t.csN = true ∧ (s.phase = .deassert ∨ s.env.resetN.head? = some false)) ∨
       (∃ h, e = .poll h ∧ s.phase = .gate) ∨
       (∃ w b, e = .xfer (hi w) b ∧ s.phase = .xferHi ∧ s.word? = some w) ∨
       (∃ w b, e = .xfer (lo w) b ∧ s.phase = .xferLo ∧ s.word? = some w)))

/-- R46: no step changes the parameters, a reset included. -/
def Obligations.ParametersNeverChange : Prop :=
  ∀ s t : State, step s = .next t → t.params = s.params

/-- R162: while PHASE is not IDLE a presented request has no effect: whatever HOST presents, the step is the same; in
IDLE it is accepted if HOST still presents it. The latched request stays until `respond`, a reset apart. -/
def Obligations.BusyControllerTakesNoRequest : Prop :=
  ∀ s t : State,
    (s.phase ≠ .idle → step s = .next t →
      (∀ q, step (withRequests q s) = .next (withRequests q t)) ∧ t.env.requests = s.env.requests ∧
      (s.env.resetN.head? ≠ some false → s.phase ≠ .done → t.reqLatch = s.reqLatch)) ∧
    (∀ r rest, s.phase = .idle → s.env.resetN = [] → s.env.requests = r :: rest →
      r.fits s.params.hostValueWidth = true → ∃ u, step s = .next u ∧ u.reqLatch = some r)

/-- R135: a request gets exactly one response: a step gives one response in DONE, and none in any other phase or at a
reset; every other step leaves STAT.CODE, ERR_INFO and the results alone (10_state.md R36), a reset apart. -/
def Obligations.OneResponsePerRequest : Prop :=
  ∀ s t : State, step s = .next t →
    (s.env.resetN.head? = some false → t.responses = s.responses) ∧
    (s.env.resetN.head? ≠ some false → s.phase ≠ .done →
      t.responses = s.responses ∧ t.code = s.code ∧ t.errInfo = s.errInfo ∧
      t.resultWords = s.resultWords ∧ t.resultBytes = s.resultBytes) ∧
    (s.env.resetN.head? ≠ some false → s.phase = .done →
      t.phase = .idle ∧ ∃ r, t.responses = s.responses ++ [r] ∧ t.code = r.status.code)

/-! Status and reset. -/

/-- R36: the fields of STAT; and the host registers by number (10_state.md R36 to R38). -/
def Obligations.StatFields : Prop :=
  ∀ s : State,
    s.stat.extractLsb' 0 3 = s.code ∧ s.stat.getLsbD 3 = decide (s.phase ≠ .idle) ∧
    s.stat.extractLsb' 4 12 = 0#12 ∧
    s.readHost .hs0 = .bits s.stat ∧ s.readHost .hs1 = .nat s.errInfo ∧
    s.readHost .hs2 = .words s.resultWords ∧ s.readHost .hs3 = .bytes s.resultBytes

/-- R136: the numbers of the status codes; 5, 6 and 7 are none of them. -/
def Obligations.StatusNumbers : Prop :=
  Status.ok.code = 0#3 ∧ Status.illegalRequest.code = 1#3 ∧ Status.rangeError.code = 2#3 ∧
  Status.formatError.code = 3#3 ∧ Status.deviceNotResponding.code = 4#3 ∧
  ∀ e : Status, e.code.toNat ≤ 4

/-- R49: the reset values, MOSI and RXHI at any value and not named; TRACE is empty at the start of a run, and a reset
with CS_N = 1 appends nothing to it. -/
def Obligations.ResetValues : Prop :=
  (State.reset.csN = true ∧ State.reset.sck = false ∧ State.reset.phase = .idle ∧
    State.reset.fidx = 0 ∧ State.reset.widx = 0 ∧ State.reset.sent = 0 ∧
    State.reset.frames = [] ∧ State.reset.rxq = [] ∧ State.reset.polls = 0 ∧ State.reset.reqLatch = none ∧
    State.reset.stat = 0x0000#16 ∧ State.reset.errInfo = 0 ∧
    State.reset.resultWords = [] ∧ State.reset.resultBytes = [] ∧ State.reset.trace = []) ∧
  ∀ (s : State) (rest : List Bool), s.csN = true → s.env.resetN = false :: rest →
    ∃ t, step s = .next t ∧ t.trace = s.trace

/-- R163 and R164: a step with RESET_N = 0, in any phase: every piece of state at its reset value, CSH in TRACE exactly
if CS_N was 0, no response, no request taken, DEV not asked. (TRACE stays as the observation: log 9.) -/
def Obligations.ResetTakesEffectAtOnce : Prop :=
  ∀ (s : State) (rest : List Bool), s.env.resetN = false :: rest →
    ∃ t, step s = .next t ∧
      t.csN = true ∧ t.sck = false ∧ t.phase = .idle ∧ t.fidx = 0 ∧ t.widx = 0 ∧ t.sent = 0 ∧
      t.frames = [] ∧ t.rxq = [] ∧ t.polls = 0 ∧ t.reqLatch = none ∧
      t.stat = 0x0000#16 ∧ t.errInfo = 0 ∧ t.resultWords = [] ∧ t.resultBytes = [] ∧
      t.trace = s.trace ++ (if s.csN then [] else [.csh]) ∧
      t.responses = s.responses ∧ t.params = s.params ∧ t.env.resetN = rest ∧
      t.env.requests = s.env.requests ∧ t.env.hrdy = s.env.hrdy ∧ t.env.miso = s.env.miso

/-- R165: after a reset step with RESET_N back at 1, the next step accepts the request HOST presents, with no bus event
between. -/
def Obligations.ResetReleaseAcceptsNext : Prop :=
  ∀ (s : State) (r : Request) (rest : List Request),
    s.env.resetN = [false] → s.env.requests = r :: rest → r.fits s.params.hostValueWidth = true →
    ∃ t u, step s = .next t ∧ step t = .next u ∧
      u.phase = .validate ∧ u.reqLatch = some r ∧ u.csN = true ∧ u.trace = t.trace

/-! Invariants and whole-machine rules. -/

/-- The launch state of a run, for legal parameters and a host program that can be presented, meets the invariant and
has a trace a bus monitor finds legal. -/
def Obligations.LaunchMeetsInvariant : Prop :=
  ∀ (p : Params) (env : Env), p.wf = true → env.requests.all (Request.fits p.hostValueWidth) = true →
    (State.launch p env).Inv ∧ (State.launch p env).WireInv

/-- From every state that meets the invariant the controller has a next state, a reset included, and that state meets
it: the sequencer never loses its place and never stops. What SENT, WIDX, RXQ, POLLS and FIDX are in each phase rests on
log 1 (00_scope.md R19 would change them a step later). -/
def Obligations.InvariantIsKept : Prop :=
  ∀ s : State, s.Inv → ∃ t, step s = .next t ∧ t.Inv

/-- TRACE is at every moment the wire image of the request in progress: the monitor's open frame holds exactly the words
sent so far, its last FIDX closed frames are the request's first FIDX frames, and every event has its place (R43,
41_transport.md R109, R110). That the open frame is FRAMES[FIDX] up to WIDX at every step rests on log 1, and that the
trace stays legal when a reset cuts a byte on log 9 and log 21. -/
def Obligations.TraceIsTheWireImage : Prop :=
  ∀ s t : State, s.Inv → s.WireInv → step s = .next t → t.WireInv

/-- R42 and R43 of every run, for all legal parameters, host programs, device answers and resets: the run never stops,
in IDLE CS_N is 1, and in TRACE CSL and CSH alternate with every POLL and XFER between them. For runs with a reset in
them it rests on log 9 and log 21. -/
def Obligations.EveryRunGoesOn : Prop :=
  ∀ (p : Params) (env : Env) (k : Nat), p.wf = true → env.requests.all (Request.fits p.hostValueWidth) = true →
    ∃ s, steps k (State.launch p env) = .next s ∧
      (s.phase = .idle → s.csN = true) ∧ (busView s.trace).legal = true ∧
      ((busView s.trace).current.isSome = true ↔ s.csN = false)

/-- R107: with READY_TIMEOUT_POLLS = NONE a gate whose samples are all 0 goes on: after any number k of them CS_N is 0,
STAT.BUSY is 1, no response was given and no request was taken. -/
def Obligations.GateWithoutTimeoutHangs : Prop :=
  ∀ (k : Nat) (s : State), s.Inv → s.phase = .gate → s.params.readyTimeoutPolls = none → s.env.resetN = [] →
    List.replicate k false <+: s.env.hrdy →
    ∃ t, steps k s = .next t ∧ t.phase = .gate ∧ t.csN = false ∧ t.busy = true ∧
      t.responses = s.responses ∧ t.env.requests = s.env.requests ∧
      t.trace = s.trace ++ List.replicate k (.poll false)

/-- R157: with a finite timeout T every request in progress is answered, whatever DEV draws, within a number of steps
that depends on its frames and T only; exactly one response is given. -/
def Obligations.FiniteTimeoutEndsEveryRequest : Prop :=
  ∀ (s : State) (T : Nat), s.Inv → s.phase ≠ .idle → s.env.resetN = [] → s.params.readyTimeoutPolls = some T →
    ∃ k u, steps k s = .next u ∧ u.phase = .idle ∧ u.csN = true ∧
      (∃ r, u.responses = s.responses ++ [r]) ∧
      k ≤ 3 + (match s.plan with
        | .pass (.frames fs) => 2 * fs.length + (T + 2) * wordCount fs
        | _ => 0)

/-- R129: for a request that is not a read request, what DEV sends on MISO affects nothing but RXQ, RXHI and the
received bytes of TRACE: two states that differ only there take the same step but for that. -/
def Obligations.ReceivedBytesAreDiscarded : Prop :=
  ∀ s t s' : State, s.eraseRx = t.eraseRx → (∀ r n, s.reqLatch = some r → decode r ≠ .instr (.rdd n)) →
    step s = .next s' → ∃ t', step t = .next t' ∧ s'.eraseRx = t'.eraseRx

/-- R146: nothing DEV sends on MISO can cause an error, for any request: two states that differ only in received values
take steps that differ only in received values; status, ERR_INFO, PHASE and the bus are the same. -/
def Obligations.NothingReceivedCausesAnError : Prop :=
  ∀ s t s' : State, s.eraseRxAndWords = t.eraseRxAndWords → step s = .next s' →
    ∃ t', step t = .next t' ∧ s'.eraseRxAndWords = t'.eraseRxAndWords

/-! Where the bookkeeping stands, and when a run ends. -/

/-- The controller that leaves the bookkeeping to the step of the next primitive, as 00_scope.md R19 has it, and the one
that does it at the end of the step (log 1) make the same run from every state: the one's state is the other's with the
bookkeeping done, and TRACE, the pins, the host registers, the responses and the environment are the same at every
moment. -/
def Obligations.BookkeepingPlaceIsUnobservable : Prop :=
  ∀ (s : State) (k : Nat),
    (∀ t, steps k s = .next t ↔ ∃ l, lateSteps k { state := s, due := .none } = .next l ∧ l.caughtUp = t) ∧
    ∀ l, lateSteps k { state := s, due := .none } = .next l →
      l.state.trace = l.caughtUp.trace ∧ l.state.csN = l.caughtUp.csN ∧ l.state.sck = l.caughtUp.sck ∧
      l.state.mosi = l.caughtUp.mosi ∧ l.state.stat = l.caughtUp.stat ∧ l.state.errInfo = l.caughtUp.errInfo ∧
      l.state.resultWords = l.caughtUp.resultWords ∧ l.state.resultBytes = l.caughtUp.resultBytes ∧
      l.state.responses = l.caughtUp.responses ∧ l.state.env = l.caughtUp.env

/-- When a run without a reset ends, and what is observed of it (70_reset_and_hazards.md R182): it starts with an empty
TRACE and no response; it ends at the first moment at which PHASE is IDLE and as many responses are given as the program
has requests, and in no other; its observation is the final TRACE and the responses. HOST presents its requests in order
and one after the other's response (log 7). -/
def Obligations.RunEndsAfterLastResponse : Prop :=
  ∀ (p : Params) (env : Env), p.wf = true → env.requests.all (Request.fits p.hostValueWidth) = true →
    (∀ level ∈ env.resetN, level = true) →
    (State.launch p env).trace = [] ∧ (State.launch p env).responses = [] ∧
    ∀ (k : Nat) (s : State),
      (runFor k (State.launch p env) = .ended s ↔
        ∃ j, j ≤ k ∧ steps j (State.launch p env) = .next s ∧
          s.phase = .idle ∧ s.responses.length = env.requests.length ∧
          ∀ i u, i < j → steps i (State.launch p env) = .next u →
            ¬ (u.phase = .idle ∧ u.responses.length = env.requests.length)) ∧
      (runFor k (State.launch p env) = .ended s →
        (runFor k (State.launch p env)).observation = some { trace := s.trace, responses := s.responses })

/-- A run with a request in progress is not over (70_reset_and_hazards.md R183): a run that has ended is not BUSY; a gate
whose samples are all 0 keeps it going, without a final state, for any number of steps; and a reset before its end cuts
it, without a final state or an observation. -/
def Obligations.RunInProgressIsNotOver : Prop :=
  (∀ (k : Nat) (s t : State), runFor k s = .ended t → t.busy = false ∧ t.env.requests = []) ∧
  (∀ (k : Nat) (s : State), s.Inv → s.phase = .gate → s.params.readyTimeoutPolls = none → s.env.resetN = [] →
    List.replicate k false <+: s.env.hrdy →
    ∃ t, runFor k s = .going t ∧ t.busy = true ∧ (runFor k s).final = none ∧ (runFor k s).observation = none) ∧
  ∀ (j k : Nat) (s t : State) (rest : List Bool),
    runFor j s = .going t → t.env.resetN = false :: rest →
    ∃ u, step t = .next u ∧ runFor (j + k + 1) s = .cut u ∧
      (runFor (j + k + 1) s).final = none ∧ (runFor (j + k + 1) s).observation = none

/-- With a finite timeout every run without a reset ends, with one response for each request and CS_N = 1, whatever DEV
draws (60_exceptions.md R157; 70_reset_and_hazards.md R182). -/
def Obligations.FiniteTimeoutEndsTheRun : Prop :=
  ∀ (p : Params) (env : Env) (T : Nat), p.wf = true → env.requests.all (Request.fits p.hostValueWidth) = true →
    env.resetN = [] → p.readyTimeoutPolls = some T →
    ∃ k s, runFor k (State.launch p env) = .ended s ∧ s.responses.length = env.requests.length ∧ s.csN = true

/-- After a reset the next run starts from the launch state of its program (70_reset_and_hazards.md R182, R185;
10_state.md R49), MOSI and RXHI at any value (log 4, log 5), TRACE and the responses its own (log 9). -/
def Obligations.NextRunStartsAtLaunch : Prop :=
  ∀ (s : State) (rest : List Bool) (program : List Request), s.env.resetN = false :: rest →
    ∃ t, step s = .next t ∧ ∃ (m : Bool) (b : Byte) (n : Nat),
      t.nextRun program =
        { State.launch s.params
            { resetN := rest, requests := program, hrdy := s.env.hrdy, miso := s.env.miso, draws := n } with
          mosi := m, rxhi := b }
end

