-- ==== Sys2Proof/Laws/Operands.lean ====
section
/-! SUPPORT. The codec functions and the checks: what each does, once. -/

namespace Sys2Proof.Machine

/-! Bytes and words (00_scope.md R14, 20_memory.md R50). -/

theorem getLsbD_wordOfBytes (b0 b1 : Byte) (i : Nat) :
    (wordOfBytes b0 b1).getLsbD i = if i < 8 then b1.getLsbD i else b0.getLsbD (i - 8) := by
  have h := BitVec.getLsbD_append (x := b0) (y := b1) (i := i)
  exact h

@[simp] theorem hi_wordOfBytes (b0 b1 : Byte) : hi (wordOfBytes b0 b1) = b0 := by
  apply BitVec.eq_of_getLsbD_eq
  intro i h
  simp [hi, h, getLsbD_wordOfBytes]

@[simp] theorem lo_wordOfBytes (b0 b1 : Byte) : lo (wordOfBytes b0 b1) = b1 := by
  apply BitVec.eq_of_getLsbD_eq
  intro i h
  simp [lo, h, getLsbD_wordOfBytes]

@[simp] theorem wordOfBytes_hi_lo (w : Word) : wordOfBytes (hi w) (lo w) = w := by
  apply BitVec.eq_of_getLsbD_eq
  intro i h
  rw [getLsbD_wordOfBytes]
  split
  · simp [lo, *]
  · have : 8 + (i - 8) = i := by omega
    have h8 : i - 8 < 8 := by omega
    simp [hi, this, h8]

theorem getLsbD_stat (s : State) (i : Nat) :
    s.stat.getLsbD i = if i < 3 then s.code.getLsbD i else if i = 3 then s.busy else false := by
  have h := BitVec.getLsbD_append (x := 0#12) (y := BitVec.ofBool s.busy ++ s.code) (i := i)
  have h2 := BitVec.getLsbD_append (x := BitVec.ofBool s.busy) (y := s.code) (i := i)
  have e : s.stat.getLsbD i = (0#12 ++ (BitVec.ofBool s.busy ++ s.code)).getLsbD i := rfl
  rw [e, h, h2]
  by_cases h3 : i < 3
  · have : i < 1 + 3 := by omega
    simp [h3, this]
  · by_cases h4 : i = 3
    · subst h4; simp
    · have : ¬ i < 1 + 3 := by omega
      simp [h3, h4, this]

@[simp] theorem length_wordsToBytes (ws : List Word) : (wordsToBytes ws).length = 2 * ws.length := by
  induction ws with
  | nil => rfl
  | cons w ws ih => simp [wordsToBytes, ih]; omega

@[simp] theorem pairBytes_wordsToBytes (ws : List Word) : pairBytes (wordsToBytes ws) = ws := by
  induction ws with
  | nil => rfl
  | cons w ws ih => simp [wordsToBytes, pairBytes, ih]

theorem wordsToBytes_pairBytes : ∀ bs : List Byte, bs.length % 2 = 0 → wordsToBytes (pairBytes bs) = bs
  | [], _ => rfl
  | [_], h => by simp at h
  | b0 :: b1 :: rest, h => by
    have ih := wordsToBytes_pairBytes rest (by simp at h; omega)
    simp [pairBytes, wordsToBytes, ih]

theorem length_pairBytes : ∀ bs : List Byte, (pairBytes bs).length = bs.length / 2
  | [] => rfl
  | [_] => by simp [pairBytes]
  | b0 :: b1 :: rest => by
    have ih := length_pairBytes rest
    simp [pairBytes, ih]; omega

theorem wordsToBytes_getElem? (ws : List Word) : ∀ (i : Nat) (w : Word), ws[i]? = some w →
    (wordsToBytes ws)[2 * i]? = some (hi w) ∧ (wordsToBytes ws)[2 * i + 1]? = some (lo w) := by
  induction ws with
  | nil => simp
  | cons v ws ih =>
    intro i w h
    cases i with
    | zero => simp at h; subst h; simp [wordsToBytes]
    | succ i =>
      have := ih i w (by simpa using h)
      simpa [wordsToBytes, Nat.mul_add] using this

/-! Checks (40_wire_codec.md R97; 60_exceptions.md R143). -/

theorem rangeCheck_pass {vs : List Nat} (h : ∀ v ∈ vs, v ≤ 0xFFFF) :
    rangeCheck vs = .pass (wordsOfHost vs) := by
  have : vs.findIdx? (fun v => decide (0xFFFF < v)) = none := by
    rw [List.findIdx?_eq_none_iff]; intro v hv; have := h v hv; simp; omega
  simp [rangeCheck, this]

theorem rangeCheck_raise {vs : List Nat} {k : Nat} (h : FirstWide vs k) :
    rangeCheck vs = .raise .rangeError k := by
  have : vs.findIdx? (fun v => decide (0xFFFF < v)) = some k := by
    obtain ⟨⟨v, hv, hw⟩, hlow⟩ := h
    rw [List.findIdx?_eq_some_iff_getElem]
    obtain ⟨hlt, rfl⟩ := List.getElem?_eq_some_iff.1 hv
    refine ⟨hlt, by simpa using hw, fun j hj => ?_⟩
    have := hlow vs[j] (List.mem_take_iff_getElem.2 ⟨j, by omega, rfl⟩)
    simp; omega
  simp [rangeCheck, this]

theorem exists_firstWide {vs : List Nat} {v} (hv : v ∈ vs) (h : 0xFFFF < v) :
    ∃ k, FirstWide vs k := by
  cases hf : vs.findIdx? (fun v => decide (0xFFFF < v)) with
  | none => rw [List.findIdx?_eq_none_iff] at hf; have := hf v hv; simp at this; omega
  | some k =>
    obtain ⟨hlt, hw, hl⟩ := List.findIdx?_eq_some_iff_getElem.1 hf
    refine ⟨k, ⟨⟨vs[k], by simp [hlt], by simpa using hw⟩, ?_⟩⟩
    intro u hu
    obtain ⟨j, hj, rfl⟩ := List.mem_take_iff_getElem.1 hu
    have := hl j (by omega)
    simp at this; omega

theorem lengthCheck_pass {p : Params} {n m : Nat} (h : ∀ k ∈ p.reqMaxWords, n ≤ k) :
    lengthCheck p n m = .pass () := by
  unfold lengthCheck
  split
  · rfl
  · rename_i k hk; have h2 : ¬ k < n := by have := h k (by simp [hk]); omega
    simp [h2]

theorem lengthCheck_raise {p : Params} {n m : Nat} (h : ∃ k ∈ p.reqMaxWords, k < n) :
    lengthCheck p n m = .raise .illegalRequest m := by
  obtain ⟨k, hk, hlt⟩ := h
  have : p.reqMaxWords = some k := hk
  simp [lengthCheck, this, hlt]

end Sys2Proof.Machine
end

