-- ==== Sys2Proof/Laws/State.lean ====
section
/-! SUPPORT. One lemma for each field and each named update of the state: what the update makes of the field. Later proofs
cite these (as simp lemmas) and do not unfold an update. -/

namespace Sys2Proof.Machine

/-! `floatMosi`. -/

@[simp] theorem floatMosi_params (s : State) : (floatMosi s).params = s.params := rfl
@[simp] theorem floatMosi_csN (s : State) : (floatMosi s).csN = s.csN := rfl
@[simp] theorem floatMosi_sck (s : State) : (floatMosi s).sck = s.sck := rfl
@[simp] theorem floatMosi_mosi (s : State) : (floatMosi s).mosi = Config.freeMosi s.env.draws := rfl
@[simp] theorem floatMosi_phase (s : State) : (floatMosi s).phase = s.phase := rfl
@[simp] theorem floatMosi_fidx (s : State) : (floatMosi s).fidx = s.fidx := rfl
@[simp] theorem floatMosi_widx (s : State) : (floatMosi s).widx = s.widx := rfl
@[simp] theorem floatMosi_sent (s : State) : (floatMosi s).sent = s.sent := rfl
@[simp] theorem floatMosi_frames (s : State) : (floatMosi s).frames = s.frames := rfl
@[simp] theorem floatMosi_rxq (s : State) : (floatMosi s).rxq = s.rxq := rfl
@[simp] theorem floatMosi_rxhi (s : State) : (floatMosi s).rxhi = s.rxhi := rfl
@[simp] theorem floatMosi_polls (s : State) : (floatMosi s).polls = s.polls := rfl
@[simp] theorem floatMosi_reqLatch (s : State) : (floatMosi s).reqLatch = s.reqLatch := rfl
@[simp] theorem floatMosi_outcome (s : State) : (floatMosi s).outcome = s.outcome := rfl
@[simp] theorem floatMosi_code (s : State) : (floatMosi s).code = s.code := rfl
@[simp] theorem floatMosi_errInfo (s : State) : (floatMosi s).errInfo = s.errInfo := rfl
@[simp] theorem floatMosi_resultWords (s : State) : (floatMosi s).resultWords = s.resultWords := rfl
@[simp] theorem floatMosi_resultBytes (s : State) : (floatMosi s).resultBytes = s.resultBytes := rfl
@[simp] theorem floatMosi_trace (s : State) : (floatMosi s).trace = s.trace := rfl
@[simp] theorem floatMosi_responses (s : State) : (floatMosi s).responses = s.responses := rfl
@[simp] theorem floatMosi_env (s : State) : (floatMosi s).env = { s.env with draws := s.env.draws + 1 } := rfl

/-! `setCS`. -/

@[simp] theorem setCS_params (v : Bool) (s : State) : (setCS v s).params = s.params := rfl
@[simp] theorem setCS_csN (v : Bool) (s : State) : (setCS v s).csN = v := rfl
@[simp] theorem setCS_sck (v : Bool) (s : State) : (setCS v s).sck = s.sck := rfl
@[simp] theorem setCS_mosi (v : Bool) (s : State) : (setCS v s).mosi = s.mosi := rfl
@[simp] theorem setCS_phase (v : Bool) (s : State) : (setCS v s).phase = s.phase := rfl
@[simp] theorem setCS_fidx (v : Bool) (s : State) : (setCS v s).fidx = s.fidx := rfl
@[simp] theorem setCS_widx (v : Bool) (s : State) : (setCS v s).widx = s.widx := rfl
@[simp] theorem setCS_sent (v : Bool) (s : State) : (setCS v s).sent = s.sent := rfl
@[simp] theorem setCS_frames (v : Bool) (s : State) : (setCS v s).frames = s.frames := rfl
@[simp] theorem setCS_rxq (v : Bool) (s : State) : (setCS v s).rxq = s.rxq := rfl
@[simp] theorem setCS_rxhi (v : Bool) (s : State) : (setCS v s).rxhi = s.rxhi := rfl
@[simp] theorem setCS_polls (v : Bool) (s : State) : (setCS v s).polls = s.polls := rfl
@[simp] theorem setCS_reqLatch (v : Bool) (s : State) : (setCS v s).reqLatch = s.reqLatch := rfl
@[simp] theorem setCS_outcome (v : Bool) (s : State) : (setCS v s).outcome = s.outcome := rfl
@[simp] theorem setCS_code (v : Bool) (s : State) : (setCS v s).code = s.code := rfl
@[simp] theorem setCS_errInfo (v : Bool) (s : State) : (setCS v s).errInfo = s.errInfo := rfl
@[simp] theorem setCS_resultWords (v : Bool) (s : State) : (setCS v s).resultWords = s.resultWords := rfl
@[simp] theorem setCS_resultBytes (v : Bool) (s : State) : (setCS v s).resultBytes = s.resultBytes := rfl
@[simp] theorem setCS_trace (v : Bool) (s : State) : (setCS v s).trace = s.trace ++ csEvents s.csN v := rfl
@[simp] theorem setCS_responses (v : Bool) (s : State) : (setCS v s).responses = s.responses := rfl
@[simp] theorem setCS_env (v : Bool) (s : State) : (setCS v s).env = s.env := rfl

/-! The state after `sampleHrdy`; its sample is `(drawHrdy s.env).1`. -/

@[simp] theorem sampleHrdy_fst (s : State) : (sampleHrdy s).1 = (drawHrdy s.env).1 := rfl
@[simp] theorem sampleHrdy_params (s : State) : ((sampleHrdy s).2).params = s.params := rfl
@[simp] theorem sampleHrdy_csN (s : State) : ((sampleHrdy s).2).csN = s.csN := rfl
@[simp] theorem sampleHrdy_sck (s : State) : ((sampleHrdy s).2).sck = s.sck := rfl
@[simp] theorem sampleHrdy_mosi (s : State) : ((sampleHrdy s).2).mosi = s.mosi := rfl
@[simp] theorem sampleHrdy_phase (s : State) : ((sampleHrdy s).2).phase = s.phase := rfl
@[simp] theorem sampleHrdy_fidx (s : State) : ((sampleHrdy s).2).fidx = s.fidx := rfl
@[simp] theorem sampleHrdy_widx (s : State) : ((sampleHrdy s).2).widx = s.widx := rfl
@[simp] theorem sampleHrdy_sent (s : State) : ((sampleHrdy s).2).sent = s.sent := rfl
@[simp] theorem sampleHrdy_frames (s : State) : ((sampleHrdy s).2).frames = s.frames := rfl
@[simp] theorem sampleHrdy_rxq (s : State) : ((sampleHrdy s).2).rxq = s.rxq := rfl
@[simp] theorem sampleHrdy_rxhi (s : State) : ((sampleHrdy s).2).rxhi = s.rxhi := rfl
@[simp] theorem sampleHrdy_polls (s : State) : ((sampleHrdy s).2).polls = s.polls := rfl
@[simp] theorem sampleHrdy_reqLatch (s : State) : ((sampleHrdy s).2).reqLatch = s.reqLatch := rfl
@[simp] theorem sampleHrdy_outcome (s : State) : ((sampleHrdy s).2).outcome = s.outcome := rfl
@[simp] theorem sampleHrdy_code (s : State) : ((sampleHrdy s).2).code = s.code := rfl
@[simp] theorem sampleHrdy_errInfo (s : State) : ((sampleHrdy s).2).errInfo = s.errInfo := rfl
@[simp] theorem sampleHrdy_resultWords (s : State) : ((sampleHrdy s).2).resultWords = s.resultWords := rfl
@[simp] theorem sampleHrdy_resultBytes (s : State) : ((sampleHrdy s).2).resultBytes = s.resultBytes := rfl
@[simp] theorem sampleHrdy_trace (s : State) : ((sampleHrdy s).2).trace = s.trace ++ [.poll (drawHrdy s.env).1] := rfl
@[simp] theorem sampleHrdy_responses (s : State) : ((sampleHrdy s).2).responses = s.responses := rfl
@[simp] theorem sampleHrdy_env (s : State) : ((sampleHrdy s).2).env = (drawHrdy s.env).2 := rfl

/-! The state after `spiXfer8`; its received byte is `(drawMiso s.env).1`. -/

@[simp] theorem spiXfer8_fst (tx : Byte) (s : State) : (spiXfer8 tx s).1 = (drawMiso s.env).1 := rfl
@[simp] theorem spiXfer8_params (tx : Byte) (s : State) : ((spiXfer8 tx s).2).params = s.params := rfl
@[simp] theorem spiXfer8_csN (tx : Byte) (s : State) : ((spiXfer8 tx s).2).csN = s.csN := rfl
@[simp] theorem spiXfer8_sck (tx : Byte) (s : State) : ((spiXfer8 tx s).2).sck = Config.sckIdle := rfl
@[simp] theorem spiXfer8_mosi (tx : Byte) (s : State) : ((spiXfer8 tx s).2).mosi = s.mosi := rfl
@[simp] theorem spiXfer8_phase (tx : Byte) (s : State) : ((spiXfer8 tx s).2).phase = s.phase := rfl
@[simp] theorem spiXfer8_fidx (tx : Byte) (s : State) : ((spiXfer8 tx s).2).fidx = s.fidx := rfl
@[simp] theorem spiXfer8_widx (tx : Byte) (s : State) : ((spiXfer8 tx s).2).widx = s.widx := rfl
@[simp] theorem spiXfer8_sent (tx : Byte) (s : State) : ((spiXfer8 tx s).2).sent = s.sent := rfl
@[simp] theorem spiXfer8_frames (tx : Byte) (s : State) : ((spiXfer8 tx s).2).frames = s.frames := rfl
@[simp] theorem spiXfer8_rxq (tx : Byte) (s : State) : ((spiXfer8 tx s).2).rxq = s.rxq := rfl
@[simp] theorem spiXfer8_rxhi (tx : Byte) (s : State) : ((spiXfer8 tx s).2).rxhi = s.rxhi := rfl
@[simp] theorem spiXfer8_polls (tx : Byte) (s : State) : ((spiXfer8 tx s).2).polls = s.polls := rfl
@[simp] theorem spiXfer8_reqLatch (tx : Byte) (s : State) : ((spiXfer8 tx s).2).reqLatch = s.reqLatch := rfl
@[simp] theorem spiXfer8_outcome (tx : Byte) (s : State) : ((spiXfer8 tx s).2).outcome = s.outcome := rfl
@[simp] theorem spiXfer8_code (tx : Byte) (s : State) : ((spiXfer8 tx s).2).code = s.code := rfl
@[simp] theorem spiXfer8_errInfo (tx : Byte) (s : State) : ((spiXfer8 tx s).2).errInfo = s.errInfo := rfl
@[simp] theorem spiXfer8_resultWords (tx : Byte) (s : State) : ((spiXfer8 tx s).2).resultWords = s.resultWords := rfl
@[simp] theorem spiXfer8_resultBytes (tx : Byte) (s : State) : ((spiXfer8 tx s).2).resultBytes = s.resultBytes := rfl
@[simp] theorem spiXfer8_trace (tx : Byte) (s : State) : ((spiXfer8 tx s).2).trace = 
      s.trace ++ [.xfer tx (drawMiso s.env).1] := rfl
@[simp] theorem spiXfer8_responses (tx : Byte) (s : State) : ((spiXfer8 tx s).2).responses = s.responses := rfl
@[simp] theorem spiXfer8_env (tx : Byte) (s : State) : ((spiXfer8 tx s).2).env = (drawMiso s.env).2 := rfl

/-! `abort`. -/

@[simp] theorem abort_params (e : Status) (info : Nat) (s : State) : (abort e info s).params = s.params := rfl
@[simp] theorem abort_csN (e : Status) (info : Nat) (s : State) : (abort e info s).csN = s.csN := rfl
@[simp] theorem abort_sck (e : Status) (info : Nat) (s : State) : (abort e info s).sck = s.sck := rfl
@[simp] theorem abort_mosi (e : Status) (info : Nat) (s : State) : (abort e info s).mosi = s.mosi := rfl
@[simp] theorem abort_phase (e : Status) (info : Nat) (s : State) : (abort e info s).phase = if s.csN then .done else .deassert := rfl
@[simp] theorem abort_fidx (e : Status) (info : Nat) (s : State) : (abort e info s).fidx = s.fidx := rfl
@[simp] theorem abort_widx (e : Status) (info : Nat) (s : State) : (abort e info s).widx = s.widx := rfl
@[simp] theorem abort_sent (e : Status) (info : Nat) (s : State) : (abort e info s).sent = s.sent := rfl
@[simp] theorem abort_frames (e : Status) (info : Nat) (s : State) : (abort e info s).frames = s.frames := rfl
@[simp] theorem abort_rxq (e : Status) (info : Nat) (s : State) : (abort e info s).rxq = s.rxq := rfl
@[simp] theorem abort_rxhi (e : Status) (info : Nat) (s : State) : (abort e info s).rxhi = s.rxhi := rfl
@[simp] theorem abort_polls (e : Status) (info : Nat) (s : State) : (abort e info s).polls = s.polls := rfl
@[simp] theorem abort_reqLatch (e : Status) (info : Nat) (s : State) : (abort e info s).reqLatch = s.reqLatch := rfl
@[simp] theorem abort_outcome (e : Status) (info : Nat) (s : State) : (abort e info s).outcome = 
      { status := e, words := [], bytes := [], info := info } := rfl
@[simp] theorem abort_code (e : Status) (info : Nat) (s : State) : (abort e info s).code = s.code := rfl
@[simp] theorem abort_errInfo (e : Status) (info : Nat) (s : State) : (abort e info s).errInfo = s.errInfo := rfl
@[simp] theorem abort_resultWords (e : Status) (info : Nat) (s : State) : (abort e info s).resultWords = s.resultWords := rfl
@[simp] theorem abort_resultBytes (e : Status) (info : Nat) (s : State) : (abort e info s).resultBytes = s.resultBytes := rfl
@[simp] theorem abort_trace (e : Status) (info : Nat) (s : State) : (abort e info s).trace = s.trace := rfl
@[simp] theorem abort_responses (e : Status) (info : Nat) (s : State) : (abort e info s).responses = s.responses := rfl
@[simp] theorem abort_env (e : Status) (info : Nat) (s : State) : (abort e info s).env = s.env := rfl

/-! `latch`. -/

@[simp] theorem latch_params (r : Request) (s : State) : (latch r s).params = s.params := rfl
@[simp] theorem latch_csN (r : Request) (s : State) : (latch r s).csN = s.csN := rfl
@[simp] theorem latch_sck (r : Request) (s : State) : (latch r s).sck = s.sck := rfl
@[simp] theorem latch_mosi (r : Request) (s : State) : (latch r s).mosi = s.mosi := rfl
@[simp] theorem latch_phase (r : Request) (s : State) : (latch r s).phase = .validate := rfl
@[simp] theorem latch_fidx (r : Request) (s : State) : (latch r s).fidx = 0 := rfl
@[simp] theorem latch_widx (r : Request) (s : State) : (latch r s).widx = 0 := rfl
@[simp] theorem latch_sent (r : Request) (s : State) : (latch r s).sent = 0 := rfl
@[simp] theorem latch_frames (r : Request) (s : State) : (latch r s).frames = s.frames := rfl
@[simp] theorem latch_rxq (r : Request) (s : State) : (latch r s).rxq = s.rxq := rfl
@[simp] theorem latch_rxhi (r : Request) (s : State) : (latch r s).rxhi = s.rxhi := rfl
@[simp] theorem latch_polls (r : Request) (s : State) : (latch r s).polls = 0 := rfl
@[simp] theorem latch_reqLatch (r : Request) (s : State) : (latch r s).reqLatch = some r := rfl
@[simp] theorem latch_outcome (r : Request) (s : State) : (latch r s).outcome = Response.blank := rfl
@[simp] theorem latch_code (r : Request) (s : State) : (latch r s).code = s.code := rfl
@[simp] theorem latch_errInfo (r : Request) (s : State) : (latch r s).errInfo = s.errInfo := rfl
@[simp] theorem latch_resultWords (r : Request) (s : State) : (latch r s).resultWords = s.resultWords := rfl
@[simp] theorem latch_resultBytes (r : Request) (s : State) : (latch r s).resultBytes = s.resultBytes := rfl
@[simp] theorem latch_trace (r : Request) (s : State) : (latch r s).trace = s.trace := rfl
@[simp] theorem latch_responses (r : Request) (s : State) : (latch r s).responses = s.responses := rfl
@[simp] theorem latch_env (r : Request) (s : State) : (latch r s).env = s.env := rfl

/-! `respond`. -/

@[simp] theorem respond_params (s : State) : (respond s).params = s.params := rfl
@[simp] theorem respond_csN (s : State) : (respond s).csN = s.csN := rfl
@[simp] theorem respond_sck (s : State) : (respond s).sck = s.sck := rfl
@[simp] theorem respond_mosi (s : State) : (respond s).mosi = s.mosi := rfl
@[simp] theorem respond_phase (s : State) : (respond s).phase = .idle := rfl
@[simp] theorem respond_fidx (s : State) : (respond s).fidx = s.fidx := rfl
@[simp] theorem respond_widx (s : State) : (respond s).widx = s.widx := rfl
@[simp] theorem respond_sent (s : State) : (respond s).sent = s.sent := rfl
@[simp] theorem respond_frames (s : State) : (respond s).frames = [] := rfl
@[simp] theorem respond_rxq (s : State) : (respond s).rxq = [] := rfl
@[simp] theorem respond_rxhi (s : State) : (respond s).rxhi = 0#8 := rfl
@[simp] theorem respond_polls (s : State) : (respond s).polls = s.polls := rfl
@[simp] theorem respond_reqLatch (s : State) : (respond s).reqLatch = none := rfl
@[simp] theorem respond_outcome (s : State) : (respond s).outcome = Response.blank := rfl
@[simp] theorem respond_code (s : State) : (respond s).code = s.outcome.status.code := rfl
@[simp] theorem respond_errInfo (s : State) : (respond s).errInfo = 
      if s.outcome.status = .ok then 0 else s.outcome.info := rfl
@[simp] theorem respond_resultWords (s : State) : (respond s).resultWords = s.outcome.words := rfl
@[simp] theorem respond_resultBytes (s : State) : (respond s).resultBytes = s.outcome.bytes := rfl
@[simp] theorem respond_trace (s : State) : (respond s).trace = s.trace := rfl
@[simp] theorem respond_responses (s : State) : (respond s).responses = s.responses ++
      [{ s.outcome with info := if s.outcome.status = .ok then 0 else s.outcome.info }] := rfl
@[simp] theorem respond_env (s : State) : (respond s).env = s.env := rfl

/-! `enterGate`. -/

@[simp] theorem enterGate_params (s : State) : (enterGate s).params = s.params := rfl
@[simp] theorem enterGate_csN (s : State) : (enterGate s).csN = s.csN := rfl
@[simp] theorem enterGate_sck (s : State) : (enterGate s).sck = s.sck := rfl
@[simp] theorem enterGate_mosi (s : State) : (enterGate s).mosi = s.mosi := rfl
@[simp] theorem enterGate_phase (s : State) : (enterGate s).phase = .gate := rfl
@[simp] theorem enterGate_fidx (s : State) : (enterGate s).fidx = s.fidx := rfl
@[simp] theorem enterGate_widx (s : State) : (enterGate s).widx = s.widx := rfl
@[simp] theorem enterGate_sent (s : State) : (enterGate s).sent = s.sent := rfl
@[simp] theorem enterGate_frames (s : State) : (enterGate s).frames = s.frames := rfl
@[simp] theorem enterGate_rxq (s : State) : (enterGate s).rxq = s.rxq := rfl
@[simp] theorem enterGate_rxhi (s : State) : (enterGate s).rxhi = s.rxhi := rfl
@[simp] theorem enterGate_polls (s : State) : (enterGate s).polls = 0 := rfl
@[simp] theorem enterGate_reqLatch (s : State) : (enterGate s).reqLatch = s.reqLatch := rfl
@[simp] theorem enterGate_outcome (s : State) : (enterGate s).outcome = s.outcome := rfl
@[simp] theorem enterGate_code (s : State) : (enterGate s).code = s.code := rfl
@[simp] theorem enterGate_errInfo (s : State) : (enterGate s).errInfo = s.errInfo := rfl
@[simp] theorem enterGate_resultWords (s : State) : (enterGate s).resultWords = s.resultWords := rfl
@[simp] theorem enterGate_resultBytes (s : State) : (enterGate s).resultBytes = s.resultBytes := rfl
@[simp] theorem enterGate_trace (s : State) : (enterGate s).trace = s.trace := rfl
@[simp] theorem enterGate_responses (s : State) : (enterGate s).responses = s.responses := rfl
@[simp] theorem enterGate_env (s : State) : (enterGate s).env = s.env := rfl

/-! `startFrame`. -/

@[simp] theorem startFrame_params (s : State) : (startFrame s).params = s.params := rfl
@[simp] theorem startFrame_csN (s : State) : (startFrame s).csN = s.csN := rfl
@[simp] theorem startFrame_sck (s : State) : (startFrame s).sck = s.sck := rfl
@[simp] theorem startFrame_mosi (s : State) : (startFrame s).mosi = s.mosi := rfl
@[simp] theorem startFrame_phase (s : State) : (startFrame s).phase = .gate := rfl
@[simp] theorem startFrame_fidx (s : State) : (startFrame s).fidx = s.fidx := rfl
@[simp] theorem startFrame_widx (s : State) : (startFrame s).widx = 0 := rfl
@[simp] theorem startFrame_sent (s : State) : (startFrame s).sent = s.sent := rfl
@[simp] theorem startFrame_frames (s : State) : (startFrame s).frames = s.frames := rfl
@[simp] theorem startFrame_rxq (s : State) : (startFrame s).rxq = [] := rfl
@[simp] theorem startFrame_rxhi (s : State) : (startFrame s).rxhi = s.rxhi := rfl
@[simp] theorem startFrame_polls (s : State) : (startFrame s).polls = 0 := rfl
@[simp] theorem startFrame_reqLatch (s : State) : (startFrame s).reqLatch = s.reqLatch := rfl
@[simp] theorem startFrame_outcome (s : State) : (startFrame s).outcome = s.outcome := rfl
@[simp] theorem startFrame_code (s : State) : (startFrame s).code = s.code := rfl
@[simp] theorem startFrame_errInfo (s : State) : (startFrame s).errInfo = s.errInfo := rfl
@[simp] theorem startFrame_resultWords (s : State) : (startFrame s).resultWords = s.resultWords := rfl
@[simp] theorem startFrame_resultBytes (s : State) : (startFrame s).resultBytes = s.resultBytes := rfl
@[simp] theorem startFrame_trace (s : State) : (startFrame s).trace = s.trace := rfl
@[simp] theorem startFrame_responses (s : State) : (startFrame s).responses = s.responses := rfl
@[simp] theorem startFrame_env (s : State) : (startFrame s).env = s.env := rfl

/-! `countPoll`. -/

@[simp] theorem countPoll_params (s : State) : (countPoll s).params = s.params := rfl
@[simp] theorem countPoll_csN (s : State) : (countPoll s).csN = s.csN := rfl
@[simp] theorem countPoll_sck (s : State) : (countPoll s).sck = s.sck := rfl
@[simp] theorem countPoll_mosi (s : State) : (countPoll s).mosi = s.mosi := rfl
@[simp] theorem countPoll_phase (s : State) : (countPoll s).phase = s.phase := rfl
@[simp] theorem countPoll_fidx (s : State) : (countPoll s).fidx = s.fidx := rfl
@[simp] theorem countPoll_widx (s : State) : (countPoll s).widx = s.widx := rfl
@[simp] theorem countPoll_sent (s : State) : (countPoll s).sent = s.sent := rfl
@[simp] theorem countPoll_frames (s : State) : (countPoll s).frames = s.frames := rfl
@[simp] theorem countPoll_rxq (s : State) : (countPoll s).rxq = s.rxq := rfl
@[simp] theorem countPoll_rxhi (s : State) : (countPoll s).rxhi = s.rxhi := rfl
@[simp] theorem countPoll_polls (s : State) : (countPoll s).polls = s.polls + 1 := rfl
@[simp] theorem countPoll_reqLatch (s : State) : (countPoll s).reqLatch = s.reqLatch := rfl
@[simp] theorem countPoll_outcome (s : State) : (countPoll s).outcome = s.outcome := rfl
@[simp] theorem countPoll_code (s : State) : (countPoll s).code = s.code := rfl
@[simp] theorem countPoll_errInfo (s : State) : (countPoll s).errInfo = s.errInfo := rfl
@[simp] theorem countPoll_resultWords (s : State) : (countPoll s).resultWords = s.resultWords := rfl
@[simp] theorem countPoll_resultBytes (s : State) : (countPoll s).resultBytes = s.resultBytes := rfl
@[simp] theorem countPoll_trace (s : State) : (countPoll s).trace = s.trace := rfl
@[simp] theorem countPoll_responses (s : State) : (countPoll s).responses = s.responses := rfl
@[simp] theorem countPoll_env (s : State) : (countPoll s).env = s.env := rfl

/-! `coded`. -/

@[simp] theorem coded_params (ws : List Word) (bs : List Byte) (s : State) : (coded ws bs s).params = s.params := rfl
@[simp] theorem coded_csN (ws : List Word) (bs : List Byte) (s : State) : (coded ws bs s).csN = s.csN := rfl
@[simp] theorem coded_sck (ws : List Word) (bs : List Byte) (s : State) : (coded ws bs s).sck = s.sck := rfl
@[simp] theorem coded_mosi (ws : List Word) (bs : List Byte) (s : State) : (coded ws bs s).mosi = s.mosi := rfl
@[simp] theorem coded_phase (ws : List Word) (bs : List Byte) (s : State) : (coded ws bs s).phase = .done := rfl
@[simp] theorem coded_fidx (ws : List Word) (bs : List Byte) (s : State) : (coded ws bs s).fidx = s.fidx := rfl
@[simp] theorem coded_widx (ws : List Word) (bs : List Byte) (s : State) : (coded ws bs s).widx = s.widx := rfl
@[simp] theorem coded_sent (ws : List Word) (bs : List Byte) (s : State) : (coded ws bs s).sent = s.sent := rfl
@[simp] theorem coded_frames (ws : List Word) (bs : List Byte) (s : State) : (coded ws bs s).frames = s.frames := rfl
@[simp] theorem coded_rxq (ws : List Word) (bs : List Byte) (s : State) : (coded ws bs s).rxq = s.rxq := rfl
@[simp] theorem coded_rxhi (ws : List Word) (bs : List Byte) (s : State) : (coded ws bs s).rxhi = s.rxhi := rfl
@[simp] theorem coded_polls (ws : List Word) (bs : List Byte) (s : State) : (coded ws bs s).polls = s.polls := rfl
@[simp] theorem coded_reqLatch (ws : List Word) (bs : List Byte) (s : State) : (coded ws bs s).reqLatch = s.reqLatch := rfl
@[simp] theorem coded_outcome (ws : List Word) (bs : List Byte) (s : State) : (coded ws bs s).outcome = 
      { status := .ok, words := ws, bytes := bs, info := 0 } := rfl
@[simp] theorem coded_code (ws : List Word) (bs : List Byte) (s : State) : (coded ws bs s).code = s.code := rfl
@[simp] theorem coded_errInfo (ws : List Word) (bs : List Byte) (s : State) : (coded ws bs s).errInfo = s.errInfo := rfl
@[simp] theorem coded_resultWords (ws : List Word) (bs : List Byte) (s : State) : (coded ws bs s).resultWords = s.resultWords := rfl
@[simp] theorem coded_resultBytes (ws : List Word) (bs : List Byte) (s : State) : (coded ws bs s).resultBytes = s.resultBytes := rfl
@[simp] theorem coded_trace (ws : List Word) (bs : List Byte) (s : State) : (coded ws bs s).trace = s.trace := rfl
@[simp] theorem coded_responses (ws : List Word) (bs : List Byte) (s : State) : (coded ws bs s).responses = s.responses := rfl
@[simp] theorem coded_env (ws : List Word) (bs : List Byte) (s : State) : (coded ws bs s).env = s.env := rfl

/-! `storeWord`. -/

@[simp] theorem storeWord_params (rxl : Byte) (s : State) : (storeWord rxl s).params = s.params := rfl
@[simp] theorem storeWord_csN (rxl : Byte) (s : State) : (storeWord rxl s).csN = s.csN := rfl
@[simp] theorem storeWord_sck (rxl : Byte) (s : State) : (storeWord rxl s).sck = s.sck := rfl
@[simp] theorem storeWord_mosi (rxl : Byte) (s : State) : (storeWord rxl s).mosi = s.mosi := rfl
@[simp] theorem storeWord_phase (rxl : Byte) (s : State) : (storeWord rxl s).phase = s.phase := rfl
@[simp] theorem storeWord_fidx (rxl : Byte) (s : State) : (storeWord rxl s).fidx = s.fidx := rfl
@[simp] theorem storeWord_widx (rxl : Byte) (s : State) : (storeWord rxl s).widx = s.widx + 1 := rfl
@[simp] theorem storeWord_sent (rxl : Byte) (s : State) : (storeWord rxl s).sent = s.sent + 1 := rfl
@[simp] theorem storeWord_frames (rxl : Byte) (s : State) : (storeWord rxl s).frames = s.frames := rfl
@[simp] theorem storeWord_rxq (rxl : Byte) (s : State) : (storeWord rxl s).rxq = 
      s.rxq ++ [wordOfBytes s.rxhi rxl] := rfl
@[simp] theorem storeWord_rxhi (rxl : Byte) (s : State) : (storeWord rxl s).rxhi = s.rxhi := rfl
@[simp] theorem storeWord_polls (rxl : Byte) (s : State) : (storeWord rxl s).polls = s.polls := rfl
@[simp] theorem storeWord_reqLatch (rxl : Byte) (s : State) : (storeWord rxl s).reqLatch = s.reqLatch := rfl
@[simp] theorem storeWord_outcome (rxl : Byte) (s : State) : (storeWord rxl s).outcome = s.outcome := rfl
@[simp] theorem storeWord_code (rxl : Byte) (s : State) : (storeWord rxl s).code = s.code := rfl
@[simp] theorem storeWord_errInfo (rxl : Byte) (s : State) : (storeWord rxl s).errInfo = s.errInfo := rfl
@[simp] theorem storeWord_resultWords (rxl : Byte) (s : State) : (storeWord rxl s).resultWords = s.resultWords := rfl
@[simp] theorem storeWord_resultBytes (rxl : Byte) (s : State) : (storeWord rxl s).resultBytes = s.resultBytes := rfl
@[simp] theorem storeWord_trace (rxl : Byte) (s : State) : (storeWord rxl s).trace = s.trace := rfl
@[simp] theorem storeWord_responses (rxl : Byte) (s : State) : (storeWord rxl s).responses = s.responses := rfl
@[simp] theorem storeWord_env (rxl : Byte) (s : State) : (storeWord rxl s).env = s.env := rfl

/-! `withRequests`. -/

@[simp] theorem withRequests_params (rest : List Request) (s : State) : (withRequests rest s).params = s.params := rfl
@[simp] theorem withRequests_csN (rest : List Request) (s : State) : (withRequests rest s).csN = s.csN := rfl
@[simp] theorem withRequests_sck (rest : List Request) (s : State) : (withRequests rest s).sck = s.sck := rfl
@[simp] theorem withRequests_mosi (rest : List Request) (s : State) : (withRequests rest s).mosi = s.mosi := rfl
@[simp] theorem withRequests_phase (rest : List Request) (s : State) : (withRequests rest s).phase = s.phase := rfl
@[simp] theorem withRequests_fidx (rest : List Request) (s : State) : (withRequests rest s).fidx = s.fidx := rfl
@[simp] theorem withRequests_widx (rest : List Request) (s : State) : (withRequests rest s).widx = s.widx := rfl
@[simp] theorem withRequests_sent (rest : List Request) (s : State) : (withRequests rest s).sent = s.sent := rfl
@[simp] theorem withRequests_frames (rest : List Request) (s : State) : (withRequests rest s).frames = s.frames := rfl
@[simp] theorem withRequests_rxq (rest : List Request) (s : State) : (withRequests rest s).rxq = s.rxq := rfl
@[simp] theorem withRequests_rxhi (rest : List Request) (s : State) : (withRequests rest s).rxhi = s.rxhi := rfl
@[simp] theorem withRequests_polls (rest : List Request) (s : State) : (withRequests rest s).polls = s.polls := rfl
@[simp] theorem withRequests_reqLatch (rest : List Request) (s : State) : (withRequests rest s).reqLatch = s.reqLatch := rfl
@[simp] theorem withRequests_outcome (rest : List Request) (s : State) : (withRequests rest s).outcome = s.outcome := rfl
@[simp] theorem withRequests_code (rest : List Request) (s : State) : (withRequests rest s).code = s.code := rfl
@[simp] theorem withRequests_errInfo (rest : List Request) (s : State) : (withRequests rest s).errInfo = s.errInfo := rfl
@[simp] theorem withRequests_resultWords (rest : List Request) (s : State) : (withRequests rest s).resultWords = s.resultWords := rfl
@[simp] theorem withRequests_resultBytes (rest : List Request) (s : State) : (withRequests rest s).resultBytes = s.resultBytes := rfl
@[simp] theorem withRequests_trace (rest : List Request) (s : State) : (withRequests rest s).trace = s.trace := rfl
@[simp] theorem withRequests_responses (rest : List Request) (s : State) : (withRequests rest s).responses = s.responses := rfl
@[simp] theorem withRequests_env (rest : List Request) (s : State) : (withRequests rest s).env = { s.env with requests := rest } := rfl

/-! `withResetN`. -/

@[simp] theorem withResetN_params (rest : List Bool) (s : State) : (withResetN rest s).params = s.params := rfl
@[simp] theorem withResetN_csN (rest : List Bool) (s : State) : (withResetN rest s).csN = s.csN := rfl
@[simp] theorem withResetN_sck (rest : List Bool) (s : State) : (withResetN rest s).sck = s.sck := rfl
@[simp] theorem withResetN_mosi (rest : List Bool) (s : State) : (withResetN rest s).mosi = s.mosi := rfl
@[simp] theorem withResetN_phase (rest : List Bool) (s : State) : (withResetN rest s).phase = s.phase := rfl
@[simp] theorem withResetN_fidx (rest : List Bool) (s : State) : (withResetN rest s).fidx = s.fidx := rfl
@[simp] theorem withResetN_widx (rest : List Bool) (s : State) : (withResetN rest s).widx = s.widx := rfl
@[simp] theorem withResetN_sent (rest : List Bool) (s : State) : (withResetN rest s).sent = s.sent := rfl
@[simp] theorem withResetN_frames (rest : List Bool) (s : State) : (withResetN rest s).frames = s.frames := rfl
@[simp] theorem withResetN_rxq (rest : List Bool) (s : State) : (withResetN rest s).rxq = s.rxq := rfl
@[simp] theorem withResetN_rxhi (rest : List Bool) (s : State) : (withResetN rest s).rxhi = s.rxhi := rfl
@[simp] theorem withResetN_polls (rest : List Bool) (s : State) : (withResetN rest s).polls = s.polls := rfl
@[simp] theorem withResetN_reqLatch (rest : List Bool) (s : State) : (withResetN rest s).reqLatch = s.reqLatch := rfl
@[simp] theorem withResetN_outcome (rest : List Bool) (s : State) : (withResetN rest s).outcome = s.outcome := rfl
@[simp] theorem withResetN_code (rest : List Bool) (s : State) : (withResetN rest s).code = s.code := rfl
@[simp] theorem withResetN_errInfo (rest : List Bool) (s : State) : (withResetN rest s).errInfo = s.errInfo := rfl
@[simp] theorem withResetN_resultWords (rest : List Bool) (s : State) : (withResetN rest s).resultWords = s.resultWords := rfl
@[simp] theorem withResetN_resultBytes (rest : List Bool) (s : State) : (withResetN rest s).resultBytes = s.resultBytes := rfl
@[simp] theorem withResetN_trace (rest : List Bool) (s : State) : (withResetN rest s).trace = s.trace := rfl
@[simp] theorem withResetN_responses (rest : List Bool) (s : State) : (withResetN rest s).responses = s.responses := rfl
@[simp] theorem withResetN_env (rest : List Bool) (s : State) : (withResetN rest s).env = { s.env with resetN := rest } := rfl

/-! `resetStep`. -/

@[simp] theorem resetStep_params (s : State) : (resetStep s).params = s.params := rfl
@[simp] theorem resetStep_csN (s : State) : (resetStep s).csN = true := rfl
@[simp] theorem resetStep_sck (s : State) : (resetStep s).sck = false := rfl
@[simp] theorem resetStep_mosi (s : State) : (resetStep s).mosi = Config.freeMosi s.env.draws := rfl
@[simp] theorem resetStep_phase (s : State) : (resetStep s).phase = .idle := rfl
@[simp] theorem resetStep_fidx (s : State) : (resetStep s).fidx = 0 := rfl
@[simp] theorem resetStep_widx (s : State) : (resetStep s).widx = 0 := rfl
@[simp] theorem resetStep_sent (s : State) : (resetStep s).sent = 0 := rfl
@[simp] theorem resetStep_frames (s : State) : (resetStep s).frames = [] := rfl
@[simp] theorem resetStep_rxq (s : State) : (resetStep s).rxq = [] := rfl
@[simp] theorem resetStep_rxhi (s : State) : (resetStep s).rxhi = Config.freeRxhi s.env.draws := rfl
@[simp] theorem resetStep_polls (s : State) : (resetStep s).polls = 0 := rfl
@[simp] theorem resetStep_reqLatch (s : State) : (resetStep s).reqLatch = none := rfl
@[simp] theorem resetStep_outcome (s : State) : (resetStep s).outcome = Response.blank := rfl
@[simp] theorem resetStep_code (s : State) : (resetStep s).code = 0#3 := rfl
@[simp] theorem resetStep_errInfo (s : State) : (resetStep s).errInfo = 0 := rfl
@[simp] theorem resetStep_resultWords (s : State) : (resetStep s).resultWords = [] := rfl
@[simp] theorem resetStep_resultBytes (s : State) : (resetStep s).resultBytes = [] := rfl
@[simp] theorem resetStep_trace (s : State) : (resetStep s).trace = s.trace ++ csEvents s.csN true := rfl
@[simp] theorem resetStep_responses (s : State) : (resetStep s).responses = s.responses := rfl
@[simp] theorem resetStep_env (s : State) : (resetStep s).env =
      { s.env with draws := s.env.draws + 1 } := rfl

end Sys2Proof.Machine
end

