-- ==== Sys2Proof/Laws/Ops.lean ====
section
/-! SUPPORT. What a step of the controller does, once: draws, the phases, the reset input, and runs. -/

namespace Sys2Proof.Machine

/-! Draws (60_exceptions.md R156). -/

theorem drawHrdy_cons {e : Env} {h : Bool} {more : List Bool} (he : e.hrdy = h :: more) :
    drawHrdy e = (h, { e with hrdy := more }) := by simp [drawHrdy, he]

theorem drawMiso_cons {e : Env} {b : Byte} {more : List Byte} (he : e.miso = b :: more) :
    drawMiso e = (b, { e with miso := more }) := by simp [drawMiso, he]

@[simp] theorem drawHrdy_mk (rn : List Bool) (rq : List Request) (h : Bool) (hs : List Bool) (ms : List Byte)
    (n : Nat) : drawHrdy ⟨rn, rq, h :: hs, ms, n⟩ = (h, ⟨rn, rq, hs, ms, n⟩) := rfl

@[simp] theorem drawMiso_mk (rn : List Bool) (rq : List Request) (hs : List Bool) (b : Byte) (ms : List Byte)
    (n : Nat) : drawMiso ⟨rn, rq, hs, b :: ms, n⟩ = (b, ⟨rn, rq, hs, ms, n⟩) := rfl

@[simp] theorem drawHrdy_resetN (e : Env) : (drawHrdy e).2.resetN = e.resetN := by
  unfold drawHrdy; split <;> rfl

@[simp] theorem drawHrdy_requests (e : Env) : (drawHrdy e).2.requests = e.requests := by
  unfold drawHrdy; split <;> rfl

@[simp] theorem drawHrdy_miso (e : Env) : (drawHrdy e).2.miso = e.miso := by
  unfold drawHrdy; split <;> rfl

@[simp] theorem drawHrdy_hrdy (e : Env) : (drawHrdy e).2.hrdy = e.hrdy.tail := by
  unfold drawHrdy; split <;> simp_all

@[simp] theorem drawMiso_resetN (e : Env) : (drawMiso e).2.resetN = e.resetN := by
  unfold drawMiso; split <;> rfl

@[simp] theorem drawMiso_requests (e : Env) : (drawMiso e).2.requests = e.requests := by
  unfold drawMiso; split <;> rfl

@[simp] theorem drawMiso_hrdy (e : Env) : (drawMiso e).2.hrdy = e.hrdy := by
  unfold drawMiso; split <;> rfl

@[simp] theorem drawMiso_miso (e : Env) : (drawMiso e).2.miso = e.miso.tail := by
  unfold drawMiso; split <;> simp_all

/-! The events of SetCS (00_scope.md R17). -/

@[simp] theorem csEvents_assert : csEvents true false = [.csl] := rfl
@[simp] theorem csEvents_deassert : csEvents false true = [.csh] := rfl
@[simp] theorem csEvents_same (v : Bool) : csEvents v v = [] := by cases v <;> rfl

/-! The place named by (FIDX, WIDX). -/

@[simp] theorem frame_withResetN (rest : List Bool) (s : State) : (withResetN rest s).frame = s.frame := rfl
@[simp] theorem word?_withResetN (rest : List Bool) (s : State) : (withResetN rest s).word? = s.word? := rfl

/-! The request a step runs. -/

/-- Every request walks the same phases. -/
theorem exec_eq_runPhase (i : Instr) (s : State) : exec i s = runPhase (recipeOf s i) s := by
  cases i <;> rfl

@[simp] theorem recipeOf_plan (s : State) (i : Instr) (p : Params) : (recipeOf s i).plan p = planOf p i := by
  cases i <;> rfl

theorem decode_reservedBits {r : Request} {h : Word} (hd : decode r = .reservedBits h) : h = r.hdr := by
  unfold decode at hd
  split at hd
  · simpa using hd.symm
  · split at hd <;> simp at hd

theorem decode_reservedOp {r : Request} {h : Word} (hd : decode r = .reservedOp h) : h = r.hdr := by
  unfold decode at hd
  split at hd
  · simp at hd
  · split at hd <;> simp at hd
    exact hd.symm

@[simp] theorem recipeOfRequest_plan (s : State) (r : Request) (p : Params) :
    (recipeOfRequest s r).plan p = planOfRequest p r := by
  unfold recipeOfRequest planOfRequest
  cases h : decode r with
  | instr i => simp
  | reservedBits w => simp [decode_reservedBits h]
  | reservedOp w => simp [decode_reservedOp h]

/-- Outside IDLE the latched record takes the step of its phase. -/
theorem latchedStep_eq_runPhase (r : Request) (s : State) :
    latchedStep r s = runPhase (recipeOfRequest s r) s := by
  unfold latchedStep recipeOfRequest
  cases decode r <;> first | exact exec_eq_runPhase _ _ | rfl

theorem runStep_idle {s : State} (h : s.phase = .idle) : runStep s = idleStep s := by simp [runStep, h]

theorem runStep_latched {s : State} {r : Request} (h : s.phase ≠ .idle) (hr : s.reqLatch = some r) :
    runStep s = latchedStep r s := by simp [runStep, h, hr]

theorem step_of_resetN_nil {s : State} (h : s.env.resetN = []) : step s = runStep s := by
  simp [step, resetOrRun, h]

theorem step_of_resetN_high {s : State} {rest : List Bool} (h : s.env.resetN = true :: rest) :
    step s = runStep (withResetN rest s) := by
  simp [step, resetOrRun, h]

theorem step_of_resetN_low {s : State} {rest : List Bool} (h : s.env.resetN = false :: rest) :
    step s = .next (resetStep (withResetN rest s)) := by
  simp [step, resetOrRun, h]

/-- A step with no reset input runs the latched record. -/
theorem step_latched {s : State} {r : Request} (hn : s.env.resetN = []) (h : s.phase ≠ .idle)
    (hr : s.reqLatch = some r) : step s = runPhase (recipeOfRequest s r) s := by
  rw [step_of_resetN_nil hn, runStep_latched h hr, latchedStep_eq_runPhase]

/-! The end of a step. -/

@[simp] theorem settle_next (s : State) : settle (.next s) = .next (floatMosi s) := rfl

/-- A step that settles in a next state is one with MOSI left floating. -/
theorem settle_eq_next {r : StepResult} {t : State} : settle r = .next t ↔ ∃ u, r = .next u ∧ t = floatMosi u := by
  cases r with
  | next s => simp [settle, eq_comm]
  | fault f => simp [settle]
  | refused f => simp [settle]

/-! Runs. -/

/-- `steps` is the host's run of the machine. -/
theorem steps_eq_run (k : Nat) (s : State) : Host.Core.run core k s = steps k s := by
  induction k generalizing s with
  | zero => rfl
  | succ k ih =>
    have h : core.step s = step s := rfl
    simp only [Host.Core.run, steps, h]
    cases step s <;> first | exact ih _ | rfl

@[simp] theorem steps_zero (s : State) : steps 0 s = .next s := rfl

theorem steps_succ {s t : State} (h : step s = .next t) (k : Nat) : steps (k + 1) s = steps k t := by
  simp [steps, h]

theorem steps_one {s t : State} (h : step s = .next t) : steps 1 s = .next t := by
  rw [steps_succ h, steps_zero]

/-- Runs compose. -/
theorem steps_add {j k : Nat} {s t : State} (h : steps j s = .next t) : steps (j + k) s = steps k t := by
  induction j generalizing s with
  | zero => cases h; rw [Nat.zero_add]
  | succ j ih =>
    rw [Nat.succ_add]
    cases hs : step s with
    | next s1 =>
      rw [steps_succ hs] at h ⊢
      exact ih h
    | fault f => simp [steps, hs] at h
    | refused f => simp [steps, hs] at h

end Sys2Proof.Machine
end

