-- ==== Sys2Proof/Laws/Moves.lean ====
section
/-! SUPPORT. Said once: everything a step of the controller can do, guards included. `Move` lists the elementary
transitions of a request before MOSI floats, `StepMove` those of the controller; later proofs take a step apart with
`step_move` and do not unfold it. -/

namespace Sys2Proof.Machine

/-- The elementary transitions of a request with recipe `r` from `s`. -/
inductive Move (r : Recipe) (s : State) : State → Prop where
  | accept (hp : s.phase = .idle) (hf : r.request.fits s.params.hostValueWidth = true) : Move r s (latch r.request s)
  | refuse (e : Status) (info : Nat) (hp : s.phase = .validate) (h : r.plan s.params = .raise e info) :
      Move r s (abort e info s)
  | toCodec (hp : s.phase = .validate) (h : r.plan s.params = .pass .codec) : Move r s { s with phase := .codec }
  | noFrames (hp : s.phase = .validate) (h : r.plan s.params = .pass (.frames [])) :
      Move r s { s with frames := [], outcome := Response.blank, phase := .done }
  | toFrames (f : List Word) (fs : List (List Word)) (hp : s.phase = .validate)
      (h : r.plan s.params = .pass (.frames (f :: fs))) :
      Move r s { s with frames := f :: fs, outcome := Response.blank, phase := .assert }
  | codec (hp : s.phase = .codec) : Move r s (coded r.codecWords r.codecBytes s)
  | assert (hp : s.phase = .assert) : Move r s (startFrame (setCS false s))
  | gatePass (hp : s.phase = .gate) (h : (drawHrdy s.env).1 = true) :
      Move r s { (sampleHrdy s).2 with phase := .xferHi }
  | gateTimeout (hp : s.phase = .gate) (h : (drawHrdy s.env).1 = false)
      (ht : timedOut s.params (s.polls + 1) = true) :
      Move r s (abort .deviceNotResponding s.sent (countPoll (sampleHrdy s).2))
  | gateWait (hp : s.phase = .gate) (h : (drawHrdy s.env).1 = false)
      (ht : timedOut s.params (s.polls + 1) = false) : Move r s (countPoll (sampleHrdy s).2)
  | xferHi (w : Word) (hp : s.phase = .xferHi) (hw : s.word? = some w) :
      Move r s { (spiXfer8 (hi w) s).2 with rxhi := (drawMiso s.env).1, phase := .xferLo }
  | nextWord (w : Word) (hp : s.phase = .xferLo) (hw : s.word? = some w) (hl : s.widx + 1 < s.frame.length) :
      Move r s (enterGate (storeWord (drawMiso s.env).1 (spiXfer8 (lo w) s).2))
  | lastWord (w : Word) (hp : s.phase = .xferLo) (hw : s.word? = some w) (hl : s.frame.length ≤ s.widx + 1) :
      Move r s { storeWord (drawMiso s.env).1 (spiXfer8 (lo w) s).2 with phase := .deassert }
  | endAborted (hp : s.phase = .deassert) (ho : s.outcome.status ≠ .ok) :
      Move r s { setCS true s with phase := .done }
  | nextFrame (hp : s.phase = .deassert) (ho : s.outcome.status = .ok) (hl : s.fidx + 1 < s.frames.length) :
      Move r s { setCS true s with fidx := s.fidx + 1, phase := .assert }
  | lastFrame (hp : s.phase = .deassert) (ho : s.outcome.status = .ok) (hl : s.frames.length ≤ s.fidx + 1) :
      Move r s { setCS true s with fidx := s.fidx + 1, outcome := frameOutcome r.reads s.rxq, phase := .done }
  | respond (hp : s.phase = .done) : Move r s (respond s)

theorem xferHi_move {r : Recipe} {s t : State} (hp : s.phase = .xferHi) (h : perform (xferHiPrimitive s) = .next t) :
    Move r s t := by
  unfold xferHiPrimitive at h
  split at h
  · cases h
  · cases h; exact .xferHi _ hp ‹_›

theorem xferLo_move {r : Recipe} {s t : State} (hp : s.phase = .xferLo) (h : perform (xferLoPrimitive s) = .next t) :
    Move r s t := by
  unfold xferLoPrimitive at h
  split at h
  · cases h
  · rename_i w hw
    cases h
    show Move r s (wordSent _ _)
    unfold wordSent
    split
    · exact .nextWord w hp hw ‹_›
    · have hl : ¬ s.widx + 1 < s.frame.length := ‹_›
      exact .lastWord w hp hw (by omega)

theorem gate_move {r : Recipe} {s : State} (hp : s.phase = .gate) :
    Move r s (sampled (sampleHrdy s).1 (sampleHrdy s).2) := by
  unfold sampled
  split
  · exact .gatePass hp ‹_›
  · have hh : (drawHrdy s.env).1 = false := by simpa using ‹¬ (sampleHrdy s).1 = true›
    split
    · exact .gateTimeout hp hh ‹_›
    · rename_i ht
      exact .gateWait hp hh (by simpa using ht)

theorem deassert_move {r : Recipe} {s : State} (hp : s.phase = .deassert) :
    Move r s (frameEnded r.reads (setCS true s)) := by
  unfold frameEnded
  split
  · exact .endAborted hp ‹_›
  · rename_i ho
    split
    · exact .nextFrame hp (by simpa using ho) ‹_›
    · rename_i hl
      exact .lastFrame hp (by simpa using ho) (by simpa using hl)

/-- The step of a phase is one of the request's moves. -/
theorem phaseStep_move {r : Recipe} {s t : State} (h : phaseStep r s = .next t) : Move r s t := by
  unfold phaseStep primitive at h
  split at h
  case h_1 hp =>
    unfold acceptPrimitive Machine.accept at h
    by_cases hf : r.request.fits s.params.hostValueWidth = true
    · rw [if_pos hf] at h; cases h; exact .accept hp hf
    · rw [if_neg hf] at h; cases h
  case h_2 hp =>
    cases h
    show Move r s (validated _ s)
    cases hc : r.plan s.params with
    | raise e info => exact .refuse e info hp hc
    | pass p =>
      match p, hc with
      | .codec, hc => exact .toCodec hp hc
      | .frames [], hc => exact .noFrames hp hc
      | .frames (f :: fs), hc => exact .toFrames f fs hp hc
  case h_3 hp => cases h; exact .codec hp
  case h_4 hp => cases h; exact .assert hp
  case h_5 hp => cases h; exact gate_move hp
  case h_6 hp => exact xferHi_move hp h
  case h_7 hp => exact xferLo_move hp h
  case h_8 hp => cases h; exact deassert_move hp
  case h_9 hp => cases h; exact .respond hp

/-- A move is what the step of its phase does. -/
theorem phaseStep_of_move {r : Recipe} {s t : State} (h : Move r s t) : phaseStep r s = .next t := by
  cases h with
  | accept hp hf => simp [phaseStep, primitive, perform, hp, acceptPrimitive, Machine.accept, hf, Bookkeeping.perform]
  | refuse e info hp h => simp [phaseStep, primitive, perform, hp, Bookkeeping.perform, validated, h]
  | toCodec hp h => simp [phaseStep, primitive, perform, hp, Bookkeeping.perform, validated, h]
  | noFrames hp h => simp [phaseStep, primitive, perform, hp, Bookkeeping.perform, validated, h]
  | toFrames f fs hp h => simp [phaseStep, primitive, perform, hp, Bookkeeping.perform, validated, h]
  | codec hp => simp [phaseStep, primitive, perform, hp, Bookkeeping.perform]
  | assert hp => simp [phaseStep, primitive, perform, hp, Bookkeeping.perform]
  | gatePass hp h => simp [phaseStep, primitive, perform, hp, Bookkeeping.perform, sampled, h]
  | gateTimeout hp h ht => simp [phaseStep, primitive, perform, hp, Bookkeeping.perform, sampled, h, ht]
  | gateWait hp h ht => simp [phaseStep, primitive, perform, hp, Bookkeeping.perform, sampled, h, ht]
  | xferHi w hp hw => simp [phaseStep, primitive, perform, hp, Bookkeeping.perform, xferHiPrimitive, hw]
  | nextWord w hp hw hl =>
    have hl' : (spiXfer8 (lo w) s).2.widx + 1 < (spiXfer8 (lo w) s).2.frame.length := hl
    simp only [phaseStep, primitive, perform, hp, Bookkeeping.perform, xferLoPrimitive, hw, wordSent, if_pos hl']
    rfl
  | lastWord w hp hw hl =>
    have hl' : ¬ (spiXfer8 (lo w) s).2.widx + 1 < (spiXfer8 (lo w) s).2.frame.length := Nat.not_lt.2 hl
    simp only [phaseStep, primitive, perform, hp, Bookkeeping.perform, xferLoPrimitive, hw, wordSent, if_neg hl']
    rfl
  | endAborted hp ho => simp [phaseStep, primitive, perform, hp, Bookkeeping.perform, frameEnded, ho]
  | nextFrame hp ho hl => simp [phaseStep, primitive, perform, hp, Bookkeeping.perform, frameEnded, ho, hl]
  | lastFrame hp ho hl =>
    simp [phaseStep, primitive, perform, hp, Bookkeeping.perform, frameEnded, ho, Nat.not_lt.2 hl]
  | respond hp => simp [phaseStep, primitive, perform, hp, Bookkeeping.perform]

/-- A request's step is one of its moves, MOSI left floating. -/
theorem runPhase_move {r : Recipe} {s t : State} (h : runPhase r s = .next t) :
    ∃ u, Move r s u ∧ t = floatMosi u := by
  obtain ⟨u, hu, rfl⟩ := settle_eq_next.1 h
  exact ⟨u, phaseStep_move hu, rfl⟩

theorem runPhase_of_move {r : Recipe} {s u : State} (h : Move r s u) : runPhase r s = .next (floatMosi u) :=
  settle_eq_next.2 ⟨u, phaseStep_of_move h, rfl⟩

theorem exec_move {i : Instr} {s t : State} (h : exec i s = .next t) :
    ∃ u, Move (recipeOf s i) s u ∧ t = floatMosi u := by
  rw [exec_eq_runPhase] at h
  exact runPhase_move h

theorem exec_of_move {i : Instr} {s u : State} (h : Move (recipeOf s i) s u) : exec i s = .next (floatMosi u) := by
  rw [exec_eq_runPhase, runPhase_of_move h]

/-- What a step of the controller with RESET_N = 1 can do, before MOSI floats. -/
inductive RunMove (s : State) : State → Prop where
  | wait (hp : s.phase = .idle) (hq : s.env.requests = []) : RunMove s s
  | take (r : Request) (rest : List Request) (hp : s.phase = .idle) (hq : s.env.requests = r :: rest)
      (hf : r.fits s.params.hostValueWidth = true) :
      RunMove s (latch r (withRequests rest s))
  | latched (r : Request) (t : State) (hp : s.phase ≠ .idle) (hr : s.reqLatch = some r)
      (hm : Move (recipeOfRequest s r) s t) : RunMove s t

theorem runStep_move {s t : State} (h : runStep s = .next t) : ∃ u, RunMove s u ∧ t = floatMosi u := by
  unfold runStep at h
  split at h
  · rename_i hp
    obtain ⟨u, hu, rfl⟩ := settle_eq_next.1 h
    refine ⟨u, ?_, rfl⟩
    split at hu
    · cases hu; exact .wait hp ‹_›
    · unfold Machine.accept at hu
      split at hu
      · cases hu; exact .take _ _ hp ‹_› ‹_›
      · cases hu
  · rename_i hp
    split at h
    · cases h
    · rw [latchedStep_eq_runPhase] at h
      obtain ⟨u, hu, rfl⟩ := runPhase_move h
      exact ⟨u, .latched _ _ hp ‹_› hu, rfl⟩

/-- What a step of the controller can do; `rest` is what is left of the reset input. -/
inductive StepMove (s : State) : State → Prop where
  | free (u : State) (hn : s.env.resetN = []) (hm : RunMove s u) : StepMove s (floatMosi u)
  | released (rest : List Bool) (u : State) (hn : s.env.resetN = true :: rest)
      (hm : RunMove (withResetN rest s) u) : StepMove s (floatMosi u)
  | reset (rest : List Bool) (hn : s.env.resetN = false :: rest) :
      StepMove s (resetStep (withResetN rest s))

/-- The inversion of a step. -/
theorem step_move {s t : State} (h : step s = .next t) : StepMove s t := by
  match hn : s.env.resetN with
  | [] =>
    rw [step_of_resetN_nil hn] at h
    obtain ⟨u, hu, rfl⟩ := runStep_move h
    exact .free u hn hu
  | true :: rest =>
    rw [step_of_resetN_high hn] at h
    obtain ⟨u, hu, rfl⟩ := runStep_move h
    exact .released rest u hn hu
  | false :: rest =>
    rw [step_of_resetN_low hn] at h
    cases h
    exact .reset rest hn

/-- A move of the latched record, RESET_N not asserted, is the step. -/
theorem step_of_move {s u : State} {r : Request} (hn : s.env.resetN = []) (hp : s.phase ≠ .idle)
    (hr : s.reqLatch = some r) (hm : Move (recipeOfRequest s r) s u) : step s = .next (floatMosi u) := by
  rw [step_latched hn hp hr, runPhase_of_move hm]

end Sys2Proof.Machine
end

