-- ==== Sys2Proof/Laws/Late.lean ====
section
/-! SUPPORT. The bookkeeping of 00_scope.md R19, once: what it leaves alone, that it commutes with the rest of a step, and
that one step of either controller is one step of the other with the bookkeeping done. -/

namespace Sys2Proof.Machine

/-! What bookkeeping leaves alone. -/

/-- Bookkeeping touches only hidden registers (10_state.md R47). -/
theorem Bookkeeping.perform_frame (b : Bookkeeping) (s : State) :
    (b.perform s).params = s.params ∧ (b.perform s).csN = s.csN ∧ (b.perform s).sck = s.sck ∧
      (b.perform s).mosi = s.mosi ∧ (b.perform s).reqLatch = s.reqLatch ∧ (b.perform s).code = s.code ∧
      (b.perform s).errInfo = s.errInfo ∧ (b.perform s).resultWords = s.resultWords ∧
      (b.perform s).resultBytes = s.resultBytes ∧ (b.perform s).trace = s.trace ∧
      (b.perform s).responses = s.responses ∧ (b.perform s).env = s.env := by
  cases b with
  | validated c => cases c with
    | raise e info => simp [perform, Machine.validated]
    | pass p =>
      match p with
      | .codec => simp [perform, Machine.validated]
      | .frames [] => simp [perform, Machine.validated]
      | .frames (f :: fs) => simp [perform, Machine.validated]
  | sampled h => cases h <;> simp only [perform, Machine.sampled] <;> (try split) <;> (try split) <;> simp
  | wordSent rxl => simp only [perform, Machine.wordSent]; split <;> simp
  | frameEnded reads => simp only [perform, Machine.frameEnded]; split <;> (try split) <;> simp
  | _ => simp [perform]

@[simp] theorem Bookkeeping.perform_env (b : Bookkeeping) (s : State) : (b.perform s).env = s.env := by
  simp [b.perform_frame s]

@[simp] theorem Bookkeeping.perform_reqLatch (b : Bookkeeping) (s : State) :
    (b.perform s).reqLatch = s.reqLatch := by
  simp [b.perform_frame s]

@[simp] theorem Bookkeeping.perform_none (s : State) : Bookkeeping.none.perform s = s := rfl

/-- Bookkeeping outside IDLE leads nowhere into IDLE. -/
theorem Bookkeeping.perform_phase (b : Bookkeeping) (s : State) (h : s.phase ≠ .idle) :
    (b.perform s).phase ≠ .idle := by
  cases b with
  | validated c => cases c with
    | raise e info => simp only [perform, Machine.validated, abort_phase]; split <;> simp
    | pass p =>
      match p with
      | .codec => simp [perform, Machine.validated]
      | .frames [] => simp [perform, Machine.validated]
      | .frames (f :: fs) => simp [perform, Machine.validated]
  | sampled b =>
    cases b <;> simp only [perform, Machine.sampled]
    · simp only [Bool.false_eq_true, if_false]
      split
      · simp only [abort_phase]; split <;> simp
      · simpa using h
    · simp
  | wordSent rxl => simp only [perform, Machine.wordSent]; split <;> simp
  | frameEnded reads => simp only [perform, Machine.frameEnded]; split <;> (try split) <;> simp
  | none => exact h
  | _ => simp [perform]

/-! Bookkeeping and the end of a step. -/

/-- Bookkeeping and the floating of MOSI commute. -/
theorem Bookkeeping.perform_floatMosi (b : Bookkeeping) (s : State) :
    b.perform (floatMosi s) = floatMosi (b.perform s) := by
  cases b with
  | validated c => cases c with
    | raise e info => rfl
    | pass p =>
      match p with
      | .codec => rfl
      | .frames [] => rfl
      | .frames (f :: fs) => rfl
  | sampled h => simp only [perform, Machine.sampled, apply_ite floatMosi]; rfl
  | wordSent rxl => simp only [perform, Machine.wordSent, apply_ite floatMosi]; rfl
  | frameEnded reads => simp only [perform, Machine.frameEnded, apply_ite floatMosi]; rfl
  | _ => rfl

/-- What a step answers, with the bookkeeping done. -/
def catchUp : LateResult → StepResult
  | .next l => .next l.caughtUp
  | .fault f => .fault f
  | .refused f => .refused f

@[simp] theorem catchUp_nothingDue (r : StepResult) : catchUp (nothingDue r) = r := by cases r <;> rfl

/-- A primitive with its bookkeeping left is, once caught up, the step of its phase. -/
theorem catchUp_leaveDue (p : PrimitiveResult) : catchUp (leaveDue p) = settle (perform p) := by
  match p with
  | .next (s, b) => simp only [leaveDue, catchUp, Late.caughtUp, b.perform_floatMosi, perform, settle]
  | .fault f => rfl
  | .refused f => rfl

/-- Where RESET_N is 1. -/
theorem catchUp_latePrimitive (s : State) : catchUp (latePrimitive s) = runStep s := by
  unfold latePrimitive runStep
  split
  · exact catchUp_nothingDue _
  · cases s.reqLatch with
    | none => rfl
    | some r =>
      show catchUp (leaveDue _) = latchedStep r s
      rw [catchUp_leaveDue, latchedStep_eq_runPhase]; rfl

/-- A reset does not see what bookkeeping is due. -/
theorem resetStep_perform (b : Bookkeeping) (rest : List Bool) (s : State) :
    resetStep (withResetN rest (b.perform s)) = resetStep (withResetN rest s) := by
  simp [resetStep, b.perform_frame s]

/-- One step of either controller: doing the bookkeeping first and then stepping is stepping and then doing it. -/
theorem step_caughtUp (l : Late) : step l.caughtUp = catchUp (lateStep l) := by
  have he : l.caughtUp.env = l.state.env := by simp [Late.caughtUp]
  unfold lateStep
  match hn : l.state.env.resetN with
  | [] => rw [step_of_resetN_nil (by rw [he, hn]), catchUp_latePrimitive]
  | true :: rest => rw [step_of_resetN_high (by rw [he, hn])]; exact (catchUp_latePrimitive _).symm
  | false :: rest =>
    rw [step_of_resetN_low (by rw [he, hn])]
    simp [catchUp, Late.caughtUp, resetStep_perform]

end Sys2Proof.Machine
end

