-- ==== Sys2Proof/Laws/Monitor.lean ====
section
/-! SUPPORT. What a bus monitor reads from the events of a word and of a frame (30_encoding.md R72, R77). -/

namespace Sys2Proof.Machine

theorem busView_append (t e : List BusEvent) : busView (t ++ e) = e.foldl BusView.event (busView t) := by
  simp [busView, List.foldl_append]

/-- Polls inside a frame, no byte pending: only the last sample is remembered. -/
theorem foldl_event_polls (k : Nat) (b : Bool) : ∀ v : BusView, v.half = none → v.current.isSome = true → k ≠ 0 →
    (List.replicate k (BusEvent.poll b)).foldl BusView.event v = { v with gated := b } := by
  induction k with
  | zero => intro v _ _ h; simp at h
  | succ k ih =>
    intro v hh hc _
    obtain ⟨ws, hws⟩ := Option.isSome_iff_exists.1 hc
    have e : v.event (.poll b) = { v with gated := b } := by simp [BusView.event, hws, hh]
    rw [List.replicate_succ, List.foldl_cons, e]
    by_cases hk : k = 0
    · subst hk; simp
    · rw [ih _ (by simpa using hh) (by simpa using hc) hk]

/-- A gated word is one more word of the open frame. -/
theorem foldl_event_word (w : Word) (d : WordDraw) (v : BusView) (ws : List Word) (hc : v.current = some ws)
    (hh : v.half = none) :
    (wordEvents w d).foldl BusView.event v = { v with current := some (ws ++ [w]), half := none, gated := false } := by
  have e : (wordEvents w d).foldl BusView.event v =
      [BusEvent.poll true, .xfer (hi w) d.rxHi, .xfer (lo w) d.rxLo].foldl BusView.event
        ((List.replicate d.fails (BusEvent.poll false)).foldl BusView.event v) := by
    simp [wordEvents, List.foldl_append]
  rw [e]
  by_cases h0 : d.fails = 0
  · simp [h0, BusView.event, hc, hh]
  · rw [foldl_event_polls _ _ _ hh (by simp [hc]) h0]
    simp [BusView.event, hc, hh]

/-- Gated words are that many more words of the open frame. -/
theorem foldl_event_words : ∀ (f : List Word) (ds : List WordDraw) (v : BusView) (ws : List Word),
    f.length = ds.length → v.current = some ws → v.half = none →
    (wordsEvents f ds).foldl BusView.event v =
      { v with current := some (ws ++ f), half := none, gated := if f = [] then v.gated else false }
  | [], [], v, ws, _, hc, hh => by cases v; simp at hc hh; simp [wordsEvents, hc, hh]
  | [], _ :: _, _, _, h, _, _ => by simp at h
  | _ :: _, [], _, _, h, _, _ => by simp at h
  | w :: f, d :: ds, v, ws, h, hc, hh => by
    have e : wordsEvents (w :: f) (d :: ds) = wordEvents w d ++ wordsEvents f ds := by simp [wordsEvents]
    rw [e, List.foldl_append, foldl_event_word w d v ws hc hh,
      foldl_event_words f ds _ (ws ++ [w]) (by simpa using h) rfl rfl]
    simp

/-- A completed frame is one more closed frame. -/
theorem foldl_event_frame (f : List Word) (ds : List WordDraw) (v : BusView) (h : f.length = ds.length)
    (hc : v.current = none) :
    (frameEvents f ds).foldl BusView.event v =
      { v with closed := v.closed ++ [f], current := none, half := none, gated := false } := by
  have e : (frameEvents f ds).foldl BusView.event v =
      [BusEvent.csh].foldl BusView.event ((wordsEvents f ds).foldl BusView.event (v.event .csl)) := by
    simp [frameEvents, List.foldl_append]
  have e2 : v.event .csl = { v with current := some [], half := none, gated := false } := by
    simp [BusView.event, hc]
  rw [e, e2, foldl_event_words f ds _ [] h rfl rfl]
  simp [BusView.event]

end Sys2Proof.Machine
end

