-- ==== Sys2Proof/Laws/PerInstr.lean ====
section
/-! SUPPORT. Facts about every instruction as syntax, one lemma for each constructor. -/

namespace Sys2Proof

/-- The record of an instruction has a defined header (30_encoding.md R68, R69), and fits the port exactly when the
instruction is well-formed (00_scope.md R10). -/
def Laws.RecordOfInstr.Statement (i : Instr) : Prop :=
  hdrRsv (encode i).hdr = 0#13 ∧ (hdrOp (encode i).hdr).toNat < 6 ∧
    ∀ width, (encode i).fits width = i.wf width

theorem fitsWidth_zero (width : Option Nat) : fitsWidth width 0 = true := by
  cases width <;> simp [fitsWidth]

theorem Laws.RecordOfInstr.cmd (opc : Nat) : Laws.RecordOfInstr.Statement (.cmd opc) :=
  ⟨by simp [encode, bareRequest, hdrRsv], by simp [encode, bareRequest, hdrOp],
    fun w => by simp [encode, bareRequest, Request.fits, Instr.wf]⟩

theorem Laws.RecordOfInstr.wrd (words : List Nat) : Laws.RecordOfInstr.Statement (.wrd words) :=
  ⟨by simp [encode, bareRequest, hdrRsv], by simp [encode, bareRequest, hdrOp],
    fun w => by simp [encode, bareRequest, Request.fits, Instr.wf, fitsWidth_zero]⟩

theorem Laws.RecordOfInstr.rdd (count : Nat) : Laws.RecordOfInstr.Statement (.rdd count) :=
  ⟨by simp [encode, bareRequest, hdrRsv], by simp [encode, bareRequest, hdrOp],
    fun w => by simp [encode, bareRequest, Request.fits, Instr.wf, fitsWidth_zero]⟩

theorem Laws.RecordOfInstr.cmda (opc : Nat) (words : List Nat) : Laws.RecordOfInstr.Statement (.cmda opc words) :=
  ⟨by simp [encode, bareRequest, hdrRsv], by simp [encode, bareRequest, hdrOp],
    fun w => by simp [encode, bareRequest, Request.fits, Instr.wf]⟩

theorem Laws.RecordOfInstr.w2b (words : List Nat) : Laws.RecordOfInstr.Statement (.w2b words) :=
  ⟨by simp [encode, bareRequest, hdrRsv], by simp [encode, bareRequest, hdrOp],
    fun w => by simp [encode, bareRequest, Request.fits, Instr.wf, fitsWidth_zero]⟩

theorem Laws.RecordOfInstr.b2w (bytes : List Byte) : Laws.RecordOfInstr.Statement (.b2w bytes) :=
  ⟨by simp [encode, bareRequest, hdrRsv], by simp [encode, bareRequest, hdrOp],
    fun w => by simp [encode, bareRequest, Request.fits, Instr.wf, fitsWidth_zero]⟩

end Sys2Proof
end

