-- ==== Sys2Proof/Laws/Plans.lean ====
section
/-! SUPPORT. What validation finds (60_exceptions.md R143), case by case: one lemma for each failure and each success, and
the inversion of a plan that passes. -/

namespace Sys2Proof.Machine

theorem lengthCheck_of_not {p : Params} {i : Instr} {m : Nat} (h : ¬ TooLong p i) :
    lengthCheck p (limitedLength i) m = .pass () :=
  lengthCheck_pass fun k hk => Nat.le_of_not_lt fun hlt => h ⟨k, hk, hlt⟩

theorem planOf_tooLong {p : Params} {i : Instr} (h : TooLong p i) :
    planOf p i = .raise .illegalRequest (presentedLength i) := by
  have h' := @lengthCheck_raise p _ (presentedLength i) h
  cases i with
  | cmd c => obtain ⟨m, _, hm⟩ := h; simp [limitedLength] at hm
  | _ =>
    simp only [limitedLength, presentedLength] at h'
    simp [planOf, wrdPlan, rddPlan, cmdaPlan, w2bPlan, b2wPlan, h', Check.bind, presentedLength]

theorem planOf_firstWide {p : Params} {i : Instr} {k : Nat} (h : ¬ TooLong p i) (hk : FirstWide (checkedValues i) k) :
    planOf p i = .raise .rangeError k := by
  have h1 := fun m => @lengthCheck_of_not p i m h
  have h2 := rangeCheck_raise hk
  cases i with
  | rdd n => simp [checkedValues, FirstWide] at hk
  | b2w n => simp [checkedValues, FirstWide] at hk
  | _ =>
    simp only [limitedLength, checkedValues] at h1 h2
    simp [planOf, cmdPlan, wrdPlan, cmdaPlan, w2bPlan, h1, h2, Check.bind]

theorem planOf_b2w_odd {p : Params} {bs : List Byte} (h : ¬ TooLong p (.b2w bs)) (hl : bs.length % 2 = 1) :
    planOf p (.b2w bs) = .raise .formatError bs.length := by
  have h1 := fun m => @lengthCheck_of_not p _ m h
  simp only [limitedLength] at h1
  simp [planOf, b2wPlan, h1, Check.bind, bytesToWords, hl]

theorem planOf_b2w {p : Params} {bs : List Byte} (h : ¬ TooLong p (.b2w bs)) (hl : bs.length % 2 = 0) :
    planOf p (.b2w bs) = .pass .codec := by
  have h1 := fun m => @lengthCheck_of_not p _ m h
  simp only [limitedLength] at h1
  simp [planOf, b2wPlan, h1, Check.bind, bytesToWords, hl]

theorem planOf_w2b {p : Params} {ws : List Nat} (h : ¬ TooLong p (.w2b ws)) (hr : ∀ v ∈ ws, v ≤ 0xFFFF) :
    planOf p (.w2b ws) = .pass .codec := by
  have h1 := fun m => @lengthCheck_of_not p _ m h
  simp only [limitedLength] at h1
  simp [planOf, w2bPlan, h1, Check.bind, rangeCheck_pass hr]

theorem planOf_cmd {p : Params} {c : Nat} (h : c ≤ 0xFFFF) :
    planOf p (.cmd c) = .pass (.frames [commandFrame (wordOfHost c)]) := by
  simp [planOf, cmdPlan, rangeCheck_pass (vs := [c]) (by simpa using h), Check.bind, wordsOfHost]

theorem planOf_wrd {p : Params} {ws : List Nat} (h : ¬ TooLong p (.wrd ws)) (hr : ∀ v ∈ ws, v ≤ 0xFFFF) :
    planOf p (.wrd ws) = .pass (.frames (wrdFrames (wordsOfHost ws))) := by
  have h1 := fun m => @lengthCheck_of_not p _ m h
  simp only [limitedLength] at h1
  simp [planOf, wrdPlan, h1, Check.bind, rangeCheck_pass hr]

theorem planOf_rdd {p : Params} {n : Nat} (h : ¬ TooLong p (.rdd n)) :
    planOf p (.rdd n) = .pass (.frames (rddFrames n)) := by
  have h1 := fun m => @lengthCheck_of_not p _ m h
  simp only [limitedLength] at h1
  simp [planOf, rddPlan, h1, Check.bind]

theorem planOf_cmda {p : Params} {c : Nat} {a : List Nat} (h : ¬ TooLong p (.cmda c a)) (hc : c ≤ 0xFFFF)
    (hr : ∀ v ∈ a, v ≤ 0xFFFF) :
    planOf p (.cmda c a) = .pass (.frames (cmdaFrames p.cmdaFraming (wordOfHost c) (wordsOfHost a))) := by
  have h1 := fun m => @lengthCheck_of_not p _ m h
  simp only [limitedLength] at h1
  simp [planOf, cmdaPlan, h1, Check.bind, rangeCheck_pass (vs := c :: a) (by simpa using ⟨hc, hr⟩), wordsOfHost]

/-- What raises at validation is an error. -/
theorem planOf_raise_ne_ok {p : Params} {i : Instr} {e : Status} {info : Nat} (h : planOf p i = .raise e info) :
    e ≠ .ok ∧ e ≠ .deviceNotResponding := by
  by_cases hl : TooLong p i
  · rw [planOf_tooLong hl] at h
    cases h; simp
  · by_cases hw : ∃ v ∈ checkedValues i, 0xFFFF < v
    · obtain ⟨v, hv, hv'⟩ := hw
      obtain ⟨k, hk⟩ := exists_firstWide hv hv'
      rw [planOf_firstWide hl hk] at h
      cases h; simp
    · have hr : ∀ v ∈ checkedValues i, v ≤ 0xFFFF := by simpa using hw
      cases i with
      | cmd c => rw [planOf_cmd (hr c (by simp [checkedValues]))] at h; cases h
      | wrd ws => rw [planOf_wrd hl hr] at h; cases h
      | rdd n => rw [planOf_rdd hl] at h; cases h
      | cmda c a =>
        rw [planOf_cmda hl (hr c (by simp [checkedValues])) fun v hv => hr v (by simp [checkedValues, hv])] at h
        cases h
      | w2b ws => rw [planOf_w2b hl hr] at h; cases h
      | b2w bs =>
        rcases Nat.mod_two_eq_zero_or_one bs.length with he | ho
        · rw [planOf_b2w hl he] at h; cases h
        · rw [planOf_b2w_odd hl ho] at h; cases h; simp

/-- The cases of a plan that passes. -/
theorem planOf_pass_cases {p : Params} {i : Instr} {q : Plan} (h : planOf p i = .pass q) :
    (∃ c, i = .cmd c ∧ c ≤ 0xFFFF ∧ q = .frames [commandFrame (wordOfHost c)]) ∨
    (∃ ws, i = .wrd ws ∧ (∀ v ∈ ws, v ≤ 0xFFFF) ∧ q = .frames (wrdFrames (wordsOfHost ws))) ∨
    (∃ n, i = .rdd n ∧ q = .frames (rddFrames n)) ∨
    (∃ c a, i = .cmda c a ∧ c ≤ 0xFFFF ∧ (∀ v ∈ a, v ≤ 0xFFFF) ∧
      q = .frames (cmdaFrames p.cmdaFraming (wordOfHost c) (wordsOfHost a))) ∨
    (∃ ws, i = .w2b ws ∧ (∀ v ∈ ws, v ≤ 0xFFFF) ∧ q = .codec) ∨
    (∃ bs, i = .b2w bs ∧ bs.length % 2 = 0 ∧ q = .codec) := by
  by_cases hl : TooLong p i
  · rw [planOf_tooLong hl] at h; cases h
  · by_cases hw : ∃ v ∈ checkedValues i, 0xFFFF < v
    · obtain ⟨v, hv, hv'⟩ := hw
      obtain ⟨k, hk⟩ := exists_firstWide hv hv'
      rw [planOf_firstWide hl hk] at h; cases h
    · have hr : ∀ v ∈ checkedValues i, v ≤ 0xFFFF := by simpa using hw
      cases i with
      | cmd c =>
        have hc := hr c (by simp [checkedValues])
        rw [planOf_cmd hc] at h
        cases h; simp [hc]
      | wrd ws => rw [planOf_wrd hl hr] at h; cases h; simpa [checkedValues] using hr
      | rdd n => rw [planOf_rdd hl] at h; cases h; simp
      | cmda c a =>
        have hc := hr c (by simp [checkedValues])
        have ha : ∀ v ∈ a, v ≤ 0xFFFF := fun v hv => hr v (by simp [checkedValues, hv])
        rw [planOf_cmda hl hc ha] at h
        cases h; simpa [hc] using ha
      | w2b ws => rw [planOf_w2b hl hr] at h; cases h; simpa [checkedValues] using hr
      | b2w bs =>
        rcases Nat.mod_two_eq_zero_or_one bs.length with he | ho
        · rw [planOf_b2w hl he] at h; cases h; simp [he]
        · rw [planOf_b2w_odd hl ho] at h; cases h

/-- No frame of a request is empty (41_transport.md R112): a transfer of nothing has no frame. -/
theorem frames_ne_nil {p : Params} {i : Instr} {fs : List (List Word)} (h : planOf p i = .pass (.frames fs)) :
    ∀ f ∈ fs, f ≠ [] := by
  rcases planOf_pass_cases h with ⟨c, rfl, -, h2⟩ | ⟨ws, rfl, -, h2⟩ | ⟨n, rfl, h2⟩ | ⟨c, a, rfl, -, -, h2⟩ |
    ⟨ws, rfl, -, h2⟩ | ⟨bs, rfl, -, h2⟩ <;> try cases h2
  · simp [commandFrame]
  · unfold wrdFrames; split <;> simp [writeFrame]
  · unfold rddFrames; split <;> simp [readFrame]
  · unfold cmdaFrames; split
    · simp [commandFrame]
    · split <;> simp [commandFrame, writeFrame]

/-- A record whose validation passes selects a request. -/
theorem planOfRequest_pass {p : Params} {r : Request} {q : Plan} (h : planOfRequest p r = .pass q) :
    ∃ i, decode r = .instr i ∧ planOf p i = .pass q := by
  unfold planOfRequest at h
  split at h
  · exact ⟨_, ‹_›, h⟩
  · cases h
  · cases h

/-- A gate that has not been sampled has not timed out: a finite timeout is positive (00_scope.md R8). -/
theorem timedOut_zero {p : Params} (h : p.wf = true) : timedOut p 0 = false := by
  unfold timedOut Params.wf at *
  cases hp : p.readyTimeoutPolls with
  | none => rfl
  | some t => simp [hp] at h ⊢; omega

end Sys2Proof.Machine
end

