-- ==== Sys2Proof/Laws/Run.lean ====
section
/-! SUPPORT. Whole runs (41_transport.md R106 to R112): what the steps of a gate, a word, a frame and the frames of a
request come to, with DEV's answers given. Each lemma gives the state in full. -/

namespace Sys2Proof.Machine

/-- A gate that has not timed out had not timed out before. -/
theorem timedOut_mono {p : Params} {m n : Nat} (h : timedOut p n = false) (hm : m ≤ n) : timedOut p m = false := by
  unfold timedOut at *
  cases hp : p.readyTimeoutPolls with
  | none => rfl
  | some t => simp [hp] at h ⊢; omega

/-- Failed samples of a gate that do not time it out (41_transport.md R106). -/
theorem gate_fails {r : Request} (k : Nat) : ∀ {s : State} {more : List Bool}, s.env.resetN = [] → s.phase = .gate →
    s.reqLatch = some r → s.env.hrdy = List.replicate k false ++ more →
    (k ≠ 0 → timedOut s.params (s.polls + k) = false) →
    ∃ m n, steps k s = .next { s with
      polls := s.polls + k, mosi := m, trace := s.trace ++ List.replicate k (.poll false)
      env := { s.env with hrdy := more, draws := n } } := by
  induction k with
  | zero =>
    intro s more hn hp hr hh ht
    refine ⟨s.mosi, s.env.draws, ?_⟩
    simp at hh
    subst hh
    simp
  | succ k ih =>
    intro s more hn hp hr hh ht
    have hd : drawHrdy s.env = (false, { s.env with hrdy := List.replicate k false ++ more }) :=
      drawHrdy_cons (by simpa [List.replicate_succ] using hh)
    have hm := step_of_move hn (by simp [hp]) hr
      (.gateWait hp (by rw [hd]) (timedOut_mono (ht (by simp)) (by omega)))
    have := ih (s := floatMosi (countPoll (sampleHrdy s).2)) (more := more)
      (by simpa using hn) (by simpa using hp) (by simpa using hr)
      (by simp [hd]) (fun _ => by
        have h1 := ht (by simp)
        simp only [floatMosi_params, floatMosi_polls, countPoll_params, countPoll_polls, sampleHrdy_params,
          sampleHrdy_polls]
        rwa [Nat.add_assoc, Nat.add_comm 1 k])
    obtain ⟨m, n, h⟩ := this
    refine ⟨m, n, ?_⟩
    rw [steps_succ hm, h]
    simp [floatMosi, hd, List.replicate_succ, Nat.add_assoc, Nat.add_comm 1 k]

/-- A word from its gate to its low byte, the gate passing (41_transport.md R106, R108). -/
theorem word_run {r : Request} {s : State} {w : Word} {d : WordDraw} {hs : List Bool} {ms : List Byte}
    (hn : s.env.resetN = []) (hp : s.phase = .gate) (hr : s.reqLatch = some r) (hpl : s.polls = 0)
    (hw : s.word? = some w) (hh : s.env.hrdy = hrdyOf [d] ++ hs) (hm : s.env.miso = misoOf [d] ++ ms)
    (ht : timedOut s.params d.fails = false) :
    ∃ m n p, steps (d.fails + 3) s = .next { s with
      phase := if s.widx + 1 < s.frame.length then .gate else .deassert
      polls := if s.widx + 1 < s.frame.length then 0 else p, mosi := m, sck := Config.sckIdle, rxhi := d.rxHi
      rxq := s.rxq ++ [wordOfBytes d.rxHi d.rxLo], sent := s.sent + 1, widx := s.widx + 1
      trace := s.trace ++ wordEvents w d
      env := { s.env with hrdy := hs, miso := ms, draws := n } } := by
  have hm' : s.env.miso = d.rxHi :: d.rxLo :: ms := by simpa [misoOf] using hm
  obtain ⟨m, n, h1⟩ := gate_fails (r := r) d.fails (s := s) (more := true :: hs) hn hp hr
    (by simpa [hrdyOf] using hh) (by intro _; rwa [hpl, Nat.zero_add])
  rw [steps_add h1]
  set s1 : State := { s with
      polls := s.polls + d.fails, mosi := m, trace := s.trace ++ List.replicate d.fails (.poll false)
      env := { s.env with hrdy := true :: hs, draws := n } } with hs1
  have hd1 : drawHrdy s1.env = (true, { s1.env with hrdy := hs }) := drawHrdy_cons rfl
  have e1 : step s1 = .next (floatMosi { (sampleHrdy s1).2 with phase := .xferHi }) :=
    step_of_move (r := r) (by simpa [hs1] using hn) (by simp [hs1, hp]) (by simpa [hs1] using hr)
    (.gatePass (by simpa [hs1] using hp) (by rw [hd1]))
  set s2 : State := floatMosi { (sampleHrdy s1).2 with phase := .xferHi } with hs2
  have hd2 : drawMiso s2.env = (d.rxHi, { s2.env with miso := d.rxLo :: ms }) :=
    drawMiso_cons (by simpa [hs2, hd1, hs1, misoOf] using hm)
  have e2 : step s2 =
      .next (floatMosi { (spiXfer8 (hi w) s2).2 with rxhi := (drawMiso s2.env).1, phase := .xferLo }) :=
    step_of_move (r := r) (by simpa [hs2, hd1, hs1] using hn) (by simp [hs2]) (by simpa [hs2, hs1] using hr)
    (.xferHi w (by simp [hs2]) hw)
  set s3 : State := floatMosi { (spiXfer8 (hi w) s2).2 with rxhi := (drawMiso s2.env).1, phase := .xferLo } with hs3
  have hd3 : drawMiso s3.env = (d.rxLo, { s3.env with miso := ms }) := drawMiso_cons (by simp [hs3, hd2])
  have hr3 : s3.reqLatch = some r := by simpa [hs3, hs2, hs1] using hr
  have hn3 : s3.env.resetN = [] := by simpa [hs3, hd2, hs2, hd1, hs1] using hn
  by_cases hl : s.widx + 1 < s.frame.length
  · have e3 : step s3 = .next (floatMosi (enterGate (storeWord (drawMiso s3.env).1 (spiXfer8 (lo w) s3).2))) :=
      step_of_move (r := r) hn3 (by simp [hs3]) hr3 (.nextWord w (by simp [hs3]) hw hl)
    refine ⟨Config.freeMosi (n + 2), n + 3, 0, ?_⟩
    rw [steps_succ e1, steps_succ e2, steps_one e3]
    simp [enterGate, storeWord, spiXfer8, sampleHrdy, floatMosi, hs3, hs2, hs1, hl, hm', wordEvents]
  · have e3 : step s3 =
        .next (floatMosi { storeWord (drawMiso s3.env).1 (spiXfer8 (lo w) s3).2 with phase := .deassert }) :=
      step_of_move (r := r) hn3 (by simp [hs3]) hr3 (.lastWord w (by simp [hs3]) hw (Nat.not_lt.1 hl))
    refine ⟨Config.freeMosi (n + 2), n + 3, s.polls + d.fails, ?_⟩
    rw [steps_succ e1, steps_succ e2, steps_one e3]
    simp [storeWord, spiXfer8, sampleHrdy, floatMosi, hs3, hs2, hs1, hl, hm', wordEvents]

theorem hrdyOf_cons (d : WordDraw) (ds : List WordDraw) : hrdyOf (d :: ds) = hrdyOf [d] ++ hrdyOf ds := by simp [hrdyOf]

theorem misoOf_cons (d : WordDraw) (ds : List WordDraw) : misoOf (d :: ds) = misoOf [d] ++ misoOf ds := by simp [misoOf]

/-- The words of the frame from WIDX on, as many as `ds` answers; after the last word of the frame its end follows. -/
theorem words_run {r : Request} : ∀ (ds : List WordDraw) {s : State} {hs : List Bool} {ms : List Byte},
    s.env.resetN = [] → s.phase = .gate → s.reqLatch = some r → s.polls = 0 → ds ≠ [] →
    s.widx + ds.length ≤ s.frame.length → s.env.hrdy = hrdyOf ds ++ hs → s.env.miso = misoOf ds ++ ms →
    gatesPass s.params ds →
    ∃ m n p b, steps (wordSteps ds) s = .next { s with
      phase := if s.widx + ds.length < s.frame.length then .gate else .deassert
      polls := if s.widx + ds.length < s.frame.length then 0 else p, mosi := m, sck := Config.sckIdle, rxhi := b
      rxq := s.rxq ++ receivedOf ds, sent := s.sent + ds.length, widx := s.widx + ds.length
      trace := s.trace ++ wordsEvents (s.frame.drop s.widx) ds
      env := { s.env with hrdy := hs, miso := ms, draws := n } }
  | [], _, _, _, _, _, _, _, hne, _, _, _, _ => absurd rfl hne
  | d :: ds, s, hs, ms, hn, hp, hr, hpl, _, hlen, hh, hm, hg => by
    have hlt : s.widx < s.frame.length := by simp at hlen; omega
    have hw : s.word? = some s.frame[s.widx] := by simp [State.word?, hlt]
    obtain ⟨m, n, p, h1⟩ := word_run (r := r) (d := d) (hs := hrdyOf ds ++ hs) (ms := misoOf ds ++ ms) hn hp hr hpl hw
      (by rw [hh, hrdyOf_cons, List.append_assoc]) (by rw [hm, misoOf_cons, List.append_assoc]) (hg d (by simp))
    have hst : wordSteps (d :: ds) = d.fails + 3 + wordSteps ds := by simp [wordSteps]
    have hdrop : s.frame.drop s.widx = s.frame[s.widx] :: s.frame.drop (s.widx + 1) := List.drop_eq_getElem_cons hlt
    rw [hst, steps_add h1]
    by_cases hds : ds = []
    · subst hds
      refine ⟨m, n, p, d.rxHi, ?_⟩
      rw [hdrop]
      simp only [wordSteps, List.map_nil, List.sum_nil, steps_zero, hrdyOf, misoOf, List.flatMap_nil, List.nil_append,
        wordsEvents, List.zipWith_cons_cons, List.zipWith_nil_right, List.flatten_cons, List.flatten_nil, List.append_nil,
        receivedOf, List.map_cons, List.length_singleton]
    · have hlt2 : s.widx + 1 < s.frame.length := by
        have : ds.length ≠ 0 := by simpa using hds
        simp at hlen; omega
      simp only [hlt2, if_true]
      obtain ⟨m', n', p', b', h2⟩ := words_run ds (s := { s with
          phase := .gate, polls := 0, mosi := m, sck := Config.sckIdle, rxhi := d.rxHi
          rxq := s.rxq ++ [wordOfBytes d.rxHi d.rxLo], sent := s.sent + 1, widx := s.widx + 1
          trace := s.trace ++ wordEvents s.frame[s.widx] d
          env := { s.env with hrdy := hrdyOf ds ++ hs, miso := misoOf ds ++ ms, draws := n } }) (hs := hs) (ms := ms)
        (by simpa using hn) rfl (by simpa using hr) rfl hds
        (by simp only [List.length_cons] at hlen; show s.widx + 1 + ds.length ≤ s.frame.length; omega)
        rfl rfl (fun x hx => hg x (by simp [hx]))
      refine ⟨m', n', p', b', ?_⟩
      rw [h2]
      have e1 : s.widx + 1 + ds.length = s.widx + (ds.length + 1) := by omega
      have e2 : s.sent + 1 + ds.length = s.sent + (ds.length + 1) := by omega
      have hF : ({ s with
          phase := .gate, polls := 0, mosi := m, sck := Config.sckIdle, rxhi := d.rxHi
          rxq := s.rxq ++ [wordOfBytes d.rxHi d.rxLo], sent := s.sent + 1, widx := s.widx + 1
          trace := s.trace ++ wordEvents s.frame[s.widx] d
          env := { s.env with hrdy := hrdyOf ds ++ hs, miso := misoOf ds ++ ms, draws := n } } : State).frame = s.frame := rfl
      rw [hF, hdrop]
      simp only [e1, e2, wordsEvents, receivedOf, List.zipWith_cons_cons, List.flatten_cons, List.map_cons,
        List.append_assoc, List.singleton_append, List.length_cons]

/-- Whether received words are the result depends on the latched record and on FRAMES only. -/
def readsWords (fs : List (List Word)) (r : Request) : Bool :=
  match decode r with
  | .instr (.rdd _) => decide (fs.length = 1)
  | _ => false

@[simp] theorem recipeOfRequest_reads (s : State) (r : Request) :
    (recipeOfRequest s r).reads = readsWords s.frames r := by
  unfold recipeOfRequest readsWords
  cases decode r with
  | instr i => cases i <;> rfl
  | _ => rfl

/-- A frame from SetCS(0) to SetCS(1), its gates passing. -/
theorem frame_run {r : Request} {s : State} {ds : List WordDraw} {hs : List Bool} {ms : List Byte}
    (hn : s.env.resetN = []) (hp : s.phase = .assert) (hr : s.reqLatch = some r) (hc : s.csN = true)
    (ho : s.outcome.status = .ok) (hne : s.frame ≠ []) (hl : ds.length = s.frame.length)
    (hh : s.env.hrdy = hrdyOf ds ++ hs) (hm : s.env.miso = misoOf ds ++ ms) (hg : gatesPass s.params ds) :
    ∃ m n p b, steps (wordSteps ds + 2) s = .next { s with
      phase := if s.fidx + 1 < s.frames.length then .assert else .done
      outcome := if s.fidx + 1 < s.frames.length then s.outcome
        else frameOutcome (readsWords s.frames r) (receivedOf ds)
      polls := p, mosi := m, sck := Config.sckIdle, rxhi := b
      rxq := receivedOf ds, sent := s.sent + ds.length, widx := s.frame.length, fidx := s.fidx + 1
      trace := s.trace ++ frameEvents s.frame ds
      env := { s.env with hrdy := hs, miso := ms, draws := n } } := by
  have hds : ds ≠ [] := by
    intro h; apply hne; subst h; simpa using hl.symm
  have e1 := step_of_move (r := r) hn (by simp [hp]) hr (.assert hp)
  have hF : (floatMosi (startFrame (setCS false s))).frame = s.frame := rfl
  obtain ⟨m, n, p, b, h1⟩ := words_run (r := r) ds (s := floatMosi (startFrame (setCS false s))) (hs := hs) (ms := ms)
    (by simpa using hn)
    (by simp) (by simpa using hr) (by simp) hds
    (by rw [hF]; simp [hl]) (by simpa using hh) (by simpa using hm) hg
  rw [hF, show (floatMosi (startFrame (setCS false s))).widx = 0 from rfl,
    show (floatMosi (startFrame (setCS false s))).rxq = [] from rfl,
    Nat.zero_add, hl] at h1
  simp only [Nat.lt_irrefl, if_false, List.nil_append, List.drop_zero] at h1
  rw [show wordSteps ds + 2 = (wordSteps ds + 1) + 1 from rfl, steps_succ e1, steps_add h1]
  by_cases hf : s.fidx + 1 < s.frames.length
  · refine ⟨Config.freeMosi n, n + 1, p, b, ?_⟩
    rw [steps_one (step_of_move (r := r) (by simpa using hn) (by simp) (by simpa using hr)
      (.nextFrame (by simp) (by simpa using ho) (by simpa using hf)))]
    simp [setCS, floatMosi, hf, frameEvents, hc, hl]
  · refine ⟨Config.freeMosi n, n + 1, p, b, ?_⟩
    rw [steps_one (step_of_move (r := r) (by simpa using hn) (by simp) (by simpa using hr)
      (.lastFrame (by simp) (by simpa using ho) (by simpa using hf)))]
    simp [setCS, floatMosi, hf, frameEvents, hc, hl]

theorem hrdyOf_split (ds : List WordDraw) (n : Nat) : hrdyOf ds = hrdyOf (ds.take n) ++ hrdyOf (ds.drop n) := by
  rw [hrdyOf, hrdyOf, hrdyOf, ← List.flatMap_append, List.take_append_drop]

theorem misoOf_split (ds : List WordDraw) (n : Nat) : misoOf ds = misoOf (ds.take n) ++ misoOf (ds.drop n) := by
  rw [misoOf, misoOf, misoOf, ← List.flatMap_append, List.take_append_drop]

theorem wordSteps_split (ds : List WordDraw) (n : Nat) :
    wordSteps ds = wordSteps (ds.take n) + wordSteps (ds.drop n) := by
  rw [wordSteps, wordSteps, wordSteps, ← List.sum_append, ← List.map_append, List.take_append_drop]

@[simp] theorem wordCount_nil : wordCount [] = 0 := rfl

@[simp] theorem wordCount_cons (f : List Word) (fs : List (List Word)) :
    wordCount (f :: fs) = f.length + wordCount fs := by simp [wordCount]

/-- The frames from FIDX on, all their gates passing. The last frame's words are what a read request returns. -/
theorem frames_run {r : Request} : ∀ (fs : List (List Word)) {s : State} {ds : List WordDraw} {hs : List Bool}
    {ms : List Byte}, fs ≠ [] → s.frames.drop s.fidx = fs → (∀ f ∈ fs, f ≠ []) →
    s.env.resetN = [] → s.phase = .assert → s.reqLatch = some r → s.csN = true → s.outcome.status = .ok →
    ds.length = wordCount fs → s.env.hrdy = hrdyOf ds ++ hs → s.env.miso = misoOf ds ++ ms →
    gatesPass s.params ds →
    ∃ m n p b w rx, (fs.length = 1 → rx = receivedOf ds) ∧
      steps (wordSteps ds + 2 * fs.length) s = .next { s with
        phase := .done, outcome := frameOutcome (readsWords s.frames r) rx
        polls := p, mosi := m, sck := Config.sckIdle, rxhi := b
        rxq := rx, sent := s.sent + ds.length, widx := w, fidx := s.frames.length
        trace := s.trace ++ framesEvents fs ds
        env := { s.env with hrdy := hs, miso := ms, draws := n } }
  | [], _, _, _, _, h, _, _, _, _, _, _, _, _, _, _, _ => absurd rfl h
  | f :: fs, s, ds, hs, ms, _, hd, hne, hn, hp, hr, hc, ho, hl, hh, hm, hg => by
    have hlt : s.fidx < s.frames.length := by
      rcases Nat.lt_or_ge s.fidx s.frames.length with h | h
      · exact h
      · rw [List.drop_eq_nil_of_le h] at hd; cases hd
    have hdc := List.drop_eq_getElem_cons hlt
    rw [hd] at hdc
    injection hdc with hf hfs
    have hF : s.frame = f := by simp [State.frame, hlt, hf]
    rw [wordCount_cons] at hl
    have hlf : (ds.take f.length).length = s.frame.length := by rw [hF, List.length_take]; omega
    obtain ⟨m, n, p, b, h1⟩ := frame_run (r := r) (ds := ds.take f.length) (hs := hrdyOf (ds.drop f.length) ++ hs)
      (ms := misoOf (ds.drop f.length) ++ ms) hn hp hr hc ho (by rw [hF]; exact hne f (by simp)) hlf
      (by rw [hh, hrdyOf_split ds f.length, List.append_assoc]) (by rw [hm, misoOf_split ds f.length, List.append_assoc])
      (fun d h => hg d (List.mem_of_mem_take h))
    have hst : wordSteps ds + 2 * (f :: fs).length
        = (wordSteps (ds.take f.length) + 2) + (wordSteps (ds.drop f.length) + 2 * fs.length) := by
      rw [wordSteps_split ds f.length, List.length_cons]; omega
    rw [hst, steps_add h1, hF]
    by_cases hmore : fs = []
    · subst hmore
      have hlast : ¬ s.fidx + 1 < s.frames.length := by
        have := congrArg List.length hfs; simp at this; omega
      have hdrop : ds.drop f.length = [] := by
        apply List.drop_eq_nil_of_le; simp at hl; omega
      have htake : ds.take f.length = ds := List.take_of_length_le (by simp at hl; omega)
      have hfx : s.fidx + 1 = s.frames.length := by omega
      refine ⟨m, n, p, b, f.length, receivedOf ds, fun _ => rfl, ?_⟩
      rw [hdrop, htake]
      simp only [hfx]
      simp [wordSteps, hrdyOf, misoOf, framesEvents, htake]
    · have hmore' : s.fidx + 1 < s.frames.length := by
        rcases Nat.lt_or_ge (s.fidx + 1) s.frames.length with h | h
        · exact h
        · rw [List.drop_eq_nil_of_le h] at hfs; exact absurd hfs hmore
      simp only [hmore', if_true]
      obtain ⟨m', n', p', b', w', rx', _, h2⟩ := frames_run (r := r) fs (s := { s with
          phase := .assert, polls := p, mosi := m, sck := Config.sckIdle, rxhi := b
          rxq := receivedOf (ds.take f.length), sent := s.sent + (ds.take f.length).length, widx := f.length
          fidx := s.fidx + 1, trace := s.trace ++ frameEvents f (ds.take f.length)
          env := { s.env with hrdy := hrdyOf (ds.drop f.length) ++ hs, miso := misoOf (ds.drop f.length) ++ ms, draws := n } })
        (ds := ds.drop f.length) (hs := hs) (ms := ms) hmore hfs.symm (fun g h => hne g (by simp [h])) hn rfl hr hc ho
        (by rw [List.length_drop]; omega) rfl rfl (fun d h => hg d (List.mem_of_mem_drop h))
      refine ⟨m', n', p', b', w', rx', fun h => absurd (List.length_eq_zero_iff.1 (by simpa using h)) hmore, ?_⟩
      rw [h2]
      have hsum : s.sent + (ds.take f.length).length + (ds.drop f.length).length = s.sent + ds.length := by
        rw [List.length_take, List.length_drop]; omega
      simp only [hsum, framesEvents, List.append_assoc]

/-- A gate that reads 0 for T samples: DEVICE_NOT_RESPONDING, the frame still to be ended (60_exceptions.md R147). -/
theorem gate_timeout_run {r : Request} {s : State} {T : Nat} {hs : List Bool} (hn : s.env.resetN = [])
    (hp : s.phase = .gate) (hr : s.reqLatch = some r) (hpl : s.polls = 0) (hc : s.csN = false)
    (hT : s.params.readyTimeoutPolls = some T) (h1 : 1 ≤ T) (hh : s.env.hrdy = List.replicate T false ++ hs) :
    ∃ m n, steps T s = .next { s with
      phase := .deassert, outcome := { status := .deviceNotResponding, words := [], bytes := [], info := s.sent }
      polls := T, mosi := m, trace := s.trace ++ List.replicate T (.poll false)
      env := { s.env with hrdy := hs, draws := n } } := by
  obtain ⟨k, rfl⟩ : ∃ k, T = k + 1 := ⟨T - 1, by omega⟩
  obtain ⟨m, n, e⟩ := gate_fails (r := r) k (s := s) (more := false :: hs) hn hp hr
    (by rw [hh, List.replicate_succ']; simp) (fun _ => by simp [timedOut, hT, hpl])
  refine ⟨Config.freeMosi n, n + 1, ?_⟩
  rw [steps_add e]
  rw [steps_one (step_of_move (r := r) (by simpa using hn) (by simp [hp]) (by simpa using hr)
    (.gateTimeout (by simpa using hp) (by simp) (by simp [timedOut, hT, hpl])))]
  simp [abort, sampleHrdy, floatMosi, hc, List.replicate_succ', hpl]

end Sys2Proof.Machine
end

