-- ==== Sys2Proof/Laws/RunFor.lean ====
section
/-! SUPPORT. How a run is followed (70_reset_and_hazards.md R182, R183): one step of it, its end, and that following it
further starts where it was left. -/

namespace Sys2Proof.Machine

theorem runOver_iff {s : State} : s.runOver = true ↔ s.phase = .idle ∧ s.env.requests = [] := by simp [State.runOver]

theorem resetAsserted_eq_false {s : State} : s.resetAsserted = false ↔ s.env.resetN.head? ≠ some false := by
  simp [State.resetAsserted]

/-- A run that is over stays where it is, however long it is followed. -/
theorem runFor_over {s : State} (h : s.runOver = true) (k : Nat) : runFor k s = .ended s := by
  cases k <;> simp [runFor, h]

/-- A run that is not over takes its step. -/
theorem runFor_step {s t : State} (h : s.runOver = false) (hr : s.resetAsserted = false) (hs : step s = .next t)
    (k : Nat) : runFor (k + 1) s = runFor k t := by
  simp [runFor, h, hr, hs]

/-- A reset cuts a run that is not over. -/
theorem runFor_reset {s t : State} (h : s.runOver = false) (hr : s.resetAsserted = true) (hs : step s = .next t)
    (k : Nat) : runFor (k + 1) s = .cut t := by
  simp [runFor, h, hr, hs]

/-- A run ends in a state in which it is over. -/
theorem runFor_ended {k : Nat} {s t : State} (h : runFor k s = .ended t) : t.runOver = true := by
  induction k generalizing s with
  | zero => unfold runFor at h; split at h <;> cases h; assumption
  | succ k ih =>
    unfold runFor at h
    split at h
    · cases h; assumption
    · split at h
      · split at h
        · cases h
        · exact ih h
      · cases h
      · cases h

/-- A run that goes on is where its steps have brought it, and following it further starts there. -/
theorem runFor_going {j : Nat} {s t : State} (h : runFor j s = .going t) :
    t.runOver = false ∧ steps j s = .next t ∧ ∀ k, runFor (j + k) s = runFor k t := by
  induction j generalizing s with
  | zero =>
    unfold runFor at h
    split at h <;> cases h
    exact ⟨by simpa using ‹¬ t.runOver = true›, rfl, fun k => by rw [Nat.zero_add]⟩
  | succ j ih =>
    unfold runFor at h
    split at h
    · cases h
    · rename_i ho
      split at h
      · rename_i t' hs
        split at h
        · cases h
        · rename_i hr
          obtain ⟨h1, h2, h3⟩ := ih h
          refine ⟨h1, by rw [steps_succ hs, h2], fun k => ?_⟩
          rw [Nat.succ_add, runFor_step (by simpa using ho) (by simpa using hr) hs, h3]
      · cases h
      · cases h

end Sys2Proof.Machine
end

