-- ==== Sys2Proof/Tests/Slice0.lean ====
section
/-! SUPPORT. Tests: words and values from the spec's encodings and test vectors (95_test_vectors.md, V and P numbers), and
for every statement with hypotheses a witness that meets them. -/

namespace Sys2Proof.Tests

open Sys2Proof.Machine

/-! Builders. -/

/-- Parameters with a timeout, a length limit and a host value width, two frames. -/
def params (timeout limit width : Option Nat) : Params :=
  { readyTimeoutPolls := timeout, cmdaFraming := .twoFrames, hostValueWidth := width, reqMaxWords := limit }

/-- An environment that presents nothing, with DEV's coming draws. -/
def dev (hrdy : List Bool) (miso : List Byte) : Env :=
  { resetN := [], requests := [], hrdy := hrdy, miso := miso, draws := 0 }

/-- The record `r` just accepted on an idle bus. -/
def accepted (p : Params) (r : Request) (env : Env) : State := latch r (State.launch p env)

/-- CMD 0x0302 in its frame, at word `widx` in phase `ph`. -/
def inCmd (p : Params) (ph : Phase) (widx : Nat) (env : Env) : State :=
  { accepted p (encode (.cmd 0x0302)) env with
    frames := [[0x6000#16, 0x0302#16]], phase := ph, csN := false, widx := widx, sent := widx
    rxq := List.replicate widx 0#16
    trace := if widx = 0 then [.csl] else [.csl, .poll true, .xfer 0x60#8 0#8, .xfer 0x00#8 0#8] }

/-- A request that is done, with its outcome. -/
def finished (i : Instr) (o : Response) : State :=
  { accepted Params.default (encode i) (dev [] []) with phase := .done, outcome := o }

/-- A part of the state after a step. -/
def after {α : Type} (f : State → α) (r : StepResult) : Option α := (nextOf r).map f

/-! Well-formedness refuses. -/

theorem test_wf_opcode_too_wide : (Instr.cmd 0x10000).wf (some 16) = false := by decide
theorem test_wf_words_too_wide : (Instr.wrd [0, 0x10000]).wf (some 16) = false := by decide
theorem test_wf_cmda_opcode_too_wide : (Instr.cmda 0x10000 [0]).wf (some 16) = false := by decide
theorem test_wf_cmda_words_too_wide : (Instr.cmda 0 [0x10000]).wf (some 16) = false := by decide
theorem test_wf_w2b_too_wide : (Instr.w2b [0x20000]).wf (some 17) = false := by decide
theorem test_wf_record_too_wide :
    ({ bareRequest 0#16 with opc := 0x10000 } : Request).fits (some 16) = false ∧
    ({ bareRequest 0#16 with words := [0x10000] } : Request).fits (some 16) = false := by decide
theorem test_wf_timeout_zero : (params (some 0) none none).wf = false := by decide
theorem test_wf_width_below_16 : (params none none (some 15)).wf = false := by decide
theorem test_wf_limit_zero : (params none (some 0) none).wf = false := by decide
theorem test_wf_admits : (params (some 1) (some 1) (some 16)).wf = true ∧ (Instr.cmd 0xFFFF).wf (some 16) = true ∧
    (Instr.wrd [0x10000]).wf none = true := by decide

/-! Decoding, from headers written out bit by bit (R68, R69): RSV thirteen bits, OP three. -/

theorem test_decode_cmd :
    decode { hdr := 0b0000000000000#13 ++ 0b000#3, opc := 0x0302, words := [7], count := 9, bytes := [1#8] } =
      .instr (.cmd 0x0302) := by decide
theorem test_decode_wrd :
    decode { hdr := 0b0000000000000#13 ++ 0b001#3, opc := 5, words := [0x1234], count := 9, bytes := [1#8] } =
      .instr (.wrd [0x1234]) := by decide
theorem test_decode_rdd :
    decode { hdr := 0b0000000000000#13 ++ 0b010#3, opc := 5, words := [7], count := 20, bytes := [1#8] } =
      .instr (.rdd 20) := by decide
theorem test_decode_cmda :
    decode { hdr := 0b0000000000000#13 ++ 0b011#3, opc := 0x0011, words := [0x1234, 1], count := 9, bytes := [1#8] } =
      .instr (.cmda 0x0011 [0x1234, 1]) := by decide
theorem test_decode_w2b :
    decode { hdr := 0b0000000000000#13 ++ 0b100#3, opc := 5, words := [0xFFFF], count := 9, bytes := [1#8] } =
      .instr (.w2b [0xFFFF]) := by decide
theorem test_decode_b2w :
    decode { hdr := 0b0000000000000#13 ++ 0b101#3, opc := 5, words := [7], count := 9, bytes := [0x06#8, 0x2C#8] } =
      .instr (.b2w [0x06#8, 0x2C#8]) := by decide
theorem test_decode_op_six : decode (bareRequest (0b0000000000000#13 ++ 0b110#3)) = .reservedOp 0x0006#16 := by decide
theorem test_decode_op_seven : decode (bareRequest (0b0000000000000#13 ++ 0b111#3)) = .reservedOp 0x0007#16 := by
  decide
theorem test_decode_rsv_low : decode (bareRequest (0b0000000000001#13 ++ 0b000#3)) = .reservedBits 0x0008#16 := by
  decide
theorem test_decode_rsv_high : decode (bareRequest (0b1000000000000#13 ++ 0b101#3)) = .reservedBits 0x8005#16 := by
  decide

/-- The header values of R69. -/
theorem test_encode_headers :
    [Instr.cmd 0, .wrd [], .rdd 0, .cmda 0 [], .w2b [], .b2w []].map (fun i => (encode i).hdr) =
      [0x0000#16, 0x0001#16, 0x0002#16, 0x0003#16, 0x0004#16, 0x0005#16] := by decide

/-- R91: the ImageInfo word; R92: the image buffer address of a device-info response (words 2 and 3). -/
theorem test_image_info : imageInfo true 0x3#4 0x2#4 = 0x0132#16 := by decide
theorem test_device_info_address :
    deviceInfoAddress [0x0780#16, 0x0438#16, 0x36E0#16, 0x0012#16, 0x0000#16] = some 0x001236E0#32 := by decide

/-- P-vectors: REG_RD assembles to CMDA and RDD (R87). -/
theorem test_reg_rd_line :
    assembleLine "REG_RD 0x0224".toList = some [encode (.cmda 0x0010 [0x0224]), encode (.rdd 1)] := by decide

/-! Single steps, from the vectors. -/

/-- V26. -/
theorem test_cmd_frames : after State.frames (exec (.cmd 0x0302)
    (accepted Params.default (encode (.cmd 0x0302)) (dev [] []))) = some [[0x6000#16, 0x0302#16]] := by decide
/-- V29. -/
theorem test_cmd_range : after State.outcome (exec (.cmd 0x10000)
    (accepted Params.default (encode (.cmd 0x10000)) (dev [] []))) = some ⟨.rangeError, [], [], 0⟩ := by decide
/-- V39: data words equal to preambles are data. -/
theorem test_wrd_frames : after State.frames (exec (.wrd [0x6000, 0x1000, 0])
    (accepted Params.default (encode (.wrd [0x6000, 0x1000, 0])) (dev [] []))) =
      some [[0x0000#16, 0x6000#16, 0x1000#16, 0x0000#16]] := by decide
/-- V6: length before range. -/
theorem test_wrd_length_first : after State.outcome (exec (.wrd [0x10000, 0x10000])
    (accepted (params none (some 1) none) (encode (.wrd [0x10000, 0x10000])) (dev [] []))) =
      some ⟨.illegalRequest, [], [], 2⟩ := by decide
/-- V44: the frame. -/
theorem test_rdd_frames : after State.frames (exec (.rdd 1)
    (accepted Params.default (encode (.rdd 1)) (dev [] []))) = some [[0x1000#16, 0#16, 0#16]] := by decide
/-- V44: the echo and the dummy word are dropped. -/
theorem test_rdd_result : after State.outcome (exec (.rdd 1)
    { accepted Params.default (encode (.rdd 1)) (dev [] []) with
      phase := .deassert, csN := false, frames := [[0x1000#16, 0#16, 0#16]], widx := 3, sent := 3
      rxq := [0xDEAD#16, 0xBEEF#16, 0x062C#16] }) = some ⟨.ok, [0x062C#16], [], 0⟩ := by decide
/-- V50. -/
theorem test_cmda_two_frames : after State.frames (exec (.cmda 0x0011 [0x1234, 1])
    (accepted Params.default (encode (.cmda 0x0011 [0x1234, 1])) (dev [] []))) =
      some [[0x6000#16, 0x0011#16], [0x0000#16, 0x1234#16, 0x0001#16]] := by decide
/-- V51. -/
theorem test_cmda_one_frame : after State.frames (exec (.cmda 0x0011 [0x1234, 1])
    (accepted { Params.default with cmdaFraming := .oneFrame } (encode (.cmda 0x0011 [0x1234, 1])) (dev [] []))) =
      some [[0x6000#16, 0x0011#16, 0x0000#16, 0x1234#16, 0x0001#16]] := by decide
/-- V12. -/
theorem test_w2b_bytes : after (fun t => t.outcome.bytes) (exec (.w2b [0x1234, 0xABCD])
    { accepted Params.default (encode (.w2b [0x1234, 0xABCD])) (dev [] []) with phase := .codec }) =
      some [0x12#8, 0x34#8, 0xAB#8, 0xCD#8] := by decide
/-- V16. -/
theorem test_w2b_range : after State.outcome (exec (.w2b [0xFFFF, 0x10000])
    (accepted (params none none (some 17)) (encode (.w2b [0xFFFF, 0x10000])) (dev [] []))) =
      some ⟨.rangeError, [], [], 1⟩ := by decide
/-- V20. -/
theorem test_b2w_words : after (fun t => t.outcome.words) (exec (.b2w [0x06#8, 0x2C#8])
    { accepted Params.default (encode (.b2w [0x06#8, 0x2C#8])) (dev [] []) with phase := .codec }) =
      some [0x062C#16] := by decide
/-- V24: length before format. -/
theorem test_b2w_length_first : after State.outcome (exec (.b2w [1#8, 2#8, 3#8])
    (accepted (params none (some 1) none) (encode (.b2w [1#8, 2#8, 3#8])) (dev [] []))) =
      some ⟨.illegalRequest, [], [], 3⟩ := by decide
/-- V5: header before range. -/
theorem test_illegal_header_first : after State.outcome (step
    (accepted Params.default { bareRequest 0x0009#16 with words := [0x10000] } (dev [] []))) =
      some ⟨.illegalRequest, [], [], 9⟩ := by decide
/-- V33. -/
theorem test_gate_times_out : after (fun t => (t.phase, t.outcome, t.trace)) (step
    (inCmd (params (some 1) none none) .gate 0 (dev [false] []))) =
      some (.deassert, ⟨.deviceNotResponding, [], [], 0⟩, [.csl, .poll false]) := by decide
/-- V26: the low byte of the opcode word, and the end of the frame. -/
theorem test_last_byte : after (fun t => (t.phase, t.trace.getLast?, t.sent)) (step
    (inCmd Params.default .xferLo 1 (dev [] [0xA5#8]))) =
      some (.deassert, some (.xfer 0x02#8 0xA5#8), 2) := by decide
/-- V58: reset in the second transfer. -/
theorem test_reset_in_frame : after (fun t => (t.phase, t.csN, t.trace, t.stat, t.responses)) (step
    { inCmd Params.default .xferLo 0 { dev [] [] with resetN := [false] } with
      trace := [.csl, .poll true, .xfer 0x60#8 0#8] }) =
      some (.idle, true, [.csl, .poll true, .xfer 0x60#8 0#8, .csh], 0x0000#16, []) := by decide

/-! Witnesses: concrete states and operands that meet the hypotheses of the statements. -/

/-- CMD 0x0302 accepted; DEV answers the first gate after one sample of 0, the second at once. -/
def cmdState (p : Params) : State := accepted p (encode (.cmd 0x0302)) (dev [false, true, true] [1#8, 2#8, 3#8, 4#8])

/-- RDD 1 accepted, with the draws of V44. -/
def rddState : State :=
  accepted Params.default (encode (.rdd 1)) (dev [true, true, true] [0xDE#8, 0xAD#8, 0xBE#8, 0xEF#8, 0x06#8, 0x2C#8])

theorem witness_IllegalHeaderIsRefused :
    (accepted Params.default (bareRequest 6#16) (dev [] [])).Accepted (bareRequest 6#16) ∧
    0x0005 < (bareRequest 6#16).hdr.toNat := by decide

theorem witness_UnusedFieldsHaveNoEffect :
    (cmdState Params.default).phase ≠ .idle ∧
    (cmdState Params.default).reqLatch = some (encode (.cmd 0x0302)) ∧
    decode (encode (.cmd 0x0302)) = .instr (.cmd 0x0302) ∧
    decode { encode (.cmd 0x0302) with words := [0x10000], count := 3 } = .instr (.cmd 0x0302) ∧
    ∃ t, step (cmdState Params.default) = .next t :=
  ⟨by decide, by decide, by decide, by decide, _, rfl⟩

theorem witness_StepRunsLatchedRequest :
    (cmdState Params.default).phase ≠ .idle ∧
    (cmdState Params.default).reqLatch = some (encode (.cmd 0x0302)) ∧
    decode (encode (.cmd 0x0302)) = .instr (.cmd 0x0302) ∧
    (cmdState Params.default).env.resetN = [] ∧
    (withResetN [true, false] (cmdState Params.default)).env.resetN = true :: [false] := by decide

theorem witness_PlacedWordRunsNext :
    decodeTableWord 16 0x0005 = some (.b2w []) ∧ decodeTableWord 16 0x0000 = some (.cmd 0) := by decide

theorem witness_HeaderSelectsOperands :
    (encode (.cmd 1)).hdr = 0x0000#16 ∧ (encode (.wrd [1])).hdr = 0x0001#16 ∧ (encode (.rdd 1)).hdr = 0x0002#16 ∧
    (encode (.cmda 1 [1])).hdr = 0x0003#16 ∧ (encode (.w2b [1])).hdr = 0x0004#16 ∧
    (encode (.b2w [1#8])).hdr = 0x0005#16 := by decide

theorem witness_ByteGoesMsbFirst : (0 : Nat) < 8 ∧ (7 : Nat) < 8 := by decide

theorem witness_CodecRoundTrips :
    (∀ v ∈ [0, 0xFFFF], v ≤ 0xFFFF) ∧ [0x06#8, 0x2C#8].length % 2 = 0 ∧
    0x10000 ∈ [0xFFFF, 0x10000] ∧ 0xFFFF < 0x10000 ∧ FirstWide [0xFFFF, 0x10000] 1 :=
  ⟨by decide, by decide, by decide, by decide, ⟨0x10000, rfl, by decide⟩, by decide⟩

theorem witness_CodecLengthsAndPlaces :
    ([] : List Byte).length % 2 = 0 ∧ [0x06#8, 0x2C#8].length % 2 = 0 ∧
    [0x0001#16, 0x062C#16][1]? = some 0x062C#16 := by decide

theorem witness_ReadFrameContents : 1 ≤ 1 := by decide

theorem witness_FrameEventCounts :
    [(⟨0, 1#8, 2#8⟩ : WordDraw), ⟨2, 3#8, 4#8⟩].length = [0x6000#16, 0x0302#16].length := by decide

theorem witness_FramesAreReadByPreamble :
    planOf Params.default (.cmda 0x0011 [0x1234, 1]) =
      .pass (.frames [[0x6000#16, 0x0011#16], [0x0000#16, 0x1234#16, 0x0001#16]]) ∧
    planOf Params.default (.wrd []) = .pass (.frames []) ∧
    planOf Params.default (.rdd 1) = .pass (.frames [[0x1000#16, 0#16, 0#16]]) ∧
    planOf { Params.default with cmdaFraming := .oneFrame } (.cmda 0 [0]) =
      .pass (.frames [[0x6000#16, 0#16, 0#16, 0#16]]) := by decide

theorem witness_MonitorReadsFrames :
    [(⟨1, 1#8, 2#8⟩ : WordDraw), ⟨0, 3#8, 4#8⟩].length = wordCount [[0x6000#16, 0x0302#16]] ∧
    (busView [.csl, .csh]).legal = true ∧ (busView [.csl, .csh]).current = none := by decide

theorem not_tooLong_default (i : Instr) : ¬ TooLong Params.default i := by simp [Params.default]

theorem witness_ValidationRaisesFirstFailure :
    (accepted Params.default (bareRequest 6#16) (dev [] [])).Accepted (bareRequest 6#16) ∧
    (bareRequest 6#16).hdr.extractLsb' 0 3 = 0b110#3 ∧ (bareRequest 8#16).hdr.extractLsb' 3 13 ≠ 0#13 ∧
    (accepted (params none (some 1) none) (encode (.rdd 2)) (dev [] [])).Accepted (encode (.rdd 2)) ∧
    decode (encode (.rdd 2)) = .instr (.rdd 2) ∧ TooLong (params none (some 1) none) (.rdd 2) ∧
    ¬ TooLong (params none (some 1) none) (.rdd 1) ∧ FirstWide (checkedValues (.cmda 0x10000 [0x20000])) 0 ∧
    [1#8].length % 2 = 1 ∧ InRange (.w2b [0xFFFF]) ∧ [1#8, 2#8].length % 2 = 0 ∧
    planOf Params.default (.wrd [0xFFFF]) = .pass (.frames [[0#16, 0xFFFF#16]]) :=
  ⟨by decide, by decide, by decide, by decide, by decide, ⟨1, rfl, by decide⟩, by simp [params, limitedLength],
    ⟨⟨0x10000, rfl, by decide⟩, by decide⟩, by decide, by decide, by decide, by decide⟩

theorem witness_RefusalLeavesTheBusAlone :
    (accepted Params.default (encode (.cmd 0x10000)) (dev [] [])).Accepted (encode (.cmd 0x10000)) ∧
    planOfRequest Params.default (encode (.cmd 0x10000)) = .raise .rangeError 0 ∧
    (accepted Params.default (bareRequest 7#16) (dev [] [])).Accepted (bareRequest 7#16) ∧
    planOfRequest Params.default (bareRequest 7#16) = .raise .illegalRequest 7 := by decide

theorem witness_W2bRuns :
    (accepted (params none (some 2) none) (encode (.w2b [1, 2])) (dev [] [])).Accepted (encode (.w2b [1, 2])) ∧
    decode (encode (.w2b [1, 2])) = .instr (.w2b [1, 2]) ∧
    ¬ TooLong (params none (some 2) none) (.w2b [1, 2]) ∧ (∀ v ∈ [1, 2], v ≤ 0xFFFF) ∧
    TooLong (params none (some 2) none) (.w2b [1, 2, 3]) ∧ FirstWide [0x10000] 0 :=
  ⟨by decide, by decide, by simp [params, limitedLength], by decide, ⟨2, rfl, by decide⟩,
    ⟨0x10000, rfl, by decide⟩, by decide⟩

theorem witness_B2wRuns :
    (accepted (params none (some 1) none) (encode (.b2w [6#8, 0x2C#8])) (dev [] [])).Accepted
      (encode (.b2w [6#8, 0x2C#8])) ∧
    decode (encode (.b2w [6#8, 0x2C#8])) = .instr (.b2w [6#8, 0x2C#8]) ∧
    ¬ TooLong (params none (some 1) none) (.b2w [6#8, 0x2C#8]) ∧ [6#8, 0x2C#8].length % 2 = 0 ∧
    TooLong (params none (some 1) none) (.b2w [1#8, 2#8, 3#8]) ∧
    ¬ TooLong (params none (some 1) none) (.b2w [1#8]) ∧ [1#8].length % 2 = 1 :=
  ⟨by decide, by decide, by simp [params, limitedLength], by decide, ⟨1, rfl, by decide⟩,
    by simp [params, limitedLength], by decide⟩

theorem witness_CmdRuns :
    (cmdState (params (some 2) none none)).Accepted (encode (.cmd 0x0302)) ∧
    decode (encode (.cmd 0x0302)) = .instr (.cmd 0x0302) ∧ 0x0302 ≤ 0xFFFF ∧
    gatesPass (params (some 2) none none) [⟨1, 1#8, 2#8⟩, ⟨0, 3#8, 4#8⟩] ∧
    (cmdState (params (some 2) none none)).DevAnswers [⟨1, 1#8, 2#8⟩, ⟨0, 3#8, 4#8⟩] [] := by decide

theorem witness_WrdRuns :
    (accepted Params.default (encode (.wrd [0x1234])) (dev [true, true] [1#8, 2#8, 3#8, 4#8])).Accepted
      (encode (.wrd [0x1234])) ∧
    decode (encode (.wrd [0x1234])) = .instr (.wrd [0x1234]) ∧ [0x1234] ≠ [] ∧ (∀ v ∈ [0x1234], v ≤ 0xFFFF) ∧
    ¬ TooLong Params.default (.wrd [0x1234]) ∧
    [(⟨0, 1#8, 2#8⟩ : WordDraw), ⟨0, 3#8, 4#8⟩].length = [0x1234].length + 1 ∧
    gatesPass Params.default [⟨0, 1#8, 2#8⟩, ⟨0, 3#8, 4#8⟩] ∧
    (accepted Params.default (encode (.wrd [0x1234])) (dev [true, true] [1#8, 2#8, 3#8, 4#8])).DevAnswers
      [⟨0, 1#8, 2#8⟩, ⟨0, 3#8, 4#8⟩] [] :=
  ⟨by decide, by decide, by decide, by decide, not_tooLong_default _, by decide, by decide, by decide⟩

theorem witness_EmptyTransfersAreNoOps :
    (accepted Params.default (encode (.wrd [])) (dev [] [])).Accepted (encode (.wrd [])) ∧
    decode (encode (.wrd [])) = .instr (.wrd []) ∧
    (accepted Params.default (encode (.rdd 0)) (dev [] [])).Accepted (encode (.rdd 0)) ∧
    decode (encode (.rdd 0)) = .instr (.rdd 0) := by decide

theorem witness_RddRuns :
    rddState.Accepted (encode (.rdd 1)) ∧ decode (encode (.rdd 1)) = .instr (.rdd 1) ∧
    ¬ TooLong Params.default (.rdd 1) ∧ [(⟨0, 0x06#8, 0x2C#8⟩ : WordDraw)].length = 1 ∧
    gatesPass Params.default [⟨0, 0xDE#8, 0xAD#8⟩, ⟨0, 0xBE#8, 0xEF#8⟩, ⟨0, 0x06#8, 0x2C#8⟩] ∧
    rddState.DevAnswers [⟨0, 0xDE#8, 0xAD#8⟩, ⟨0, 0xBE#8, 0xEF#8⟩, ⟨0, 0x06#8, 0x2C#8⟩] [] :=
  ⟨by decide, by decide, not_tooLong_default _, by decide, by decide, by decide⟩

/-- RDD 0 done, and RDD 1 before its first gate. -/
def rddDone : State := finished (.rdd 0) Response.blank
def rddGate : State :=
  { rddState with frames := [[0x1000#16, 0#16, 0#16]], phase := .gate, csN := false, trace := [.csl] }

theorem witness_RddReturnsExactlyN :
    rddDone.Inv ∧ rddDone.reqLatch = some (encode (.rdd 0)) ∧ decode (encode (.rdd 0)) = .instr (.rdd 0) ∧
    rddDone.env.resetN = [] ∧ rddDone.phase = .done ∧ rddDone.outcome.status = .ok ∧
    rddGate.Inv ∧ rddGate.reqLatch = some (encode (.rdd 1)) ∧ decode (encode (.rdd 1)) = .instr (.rdd 1) ∧
    rddGate.env.resetN = [] ∧ rddGate.phase.framed = true :=
  ⟨⟨by decide, by decide, by decide, by decide, by decide, by decide, by decide, by decide⟩,
    by decide, by decide, by decide, by decide, by decide,
    ⟨by decide, by decide, by decide, by decide, by decide, by decide, by decide, by decide⟩,
    by decide, by decide, by decide, by decide⟩

/-- CMDA 0x0039, [1] accepted, every gate passing at once. -/
def cmdaState (f : CmdaFraming) : State :=
  accepted { Params.default with cmdaFraming := f } (encode (.cmda 0x0039 [1]))
    (dev [true, true, true, true] [1#8, 2#8, 3#8, 4#8, 5#8, 6#8, 7#8, 8#8])

theorem witness_CmdaRuns : ∀ f : CmdaFraming,
    (cmdaState f).Accepted (encode (.cmda 0x0039 [1])) ∧
    decode (encode (.cmda 0x0039 [1])) = .instr (.cmda 0x0039 [1]) ∧ 0x0039 ≤ 0xFFFF ∧ (∀ v ∈ [1], v ≤ 0xFFFF) ∧
    ¬ TooLong (cmdaState f).params (.cmda 0x0039 [1]) ∧
    gatesPass (cmdaState f).params ([⟨0, 1#8, 2#8⟩, ⟨0, 3#8, 4#8⟩] ++ [⟨0, 5#8, 6#8⟩, ⟨0, 7#8, 8#8⟩]) ∧
    (cmdaState f).DevAnswers ([⟨0, 1#8, 2#8⟩, ⟨0, 3#8, 4#8⟩] ++ [⟨0, 5#8, 6#8⟩, ⟨0, 7#8, 8#8⟩]) [] ∧
    (cmdaState f).params.cmdaFraming = f := by
  have h : ∀ f, ¬ TooLong (cmdaState f).params (.cmda 0x0039 [1]) := fun f h => by
    obtain ⟨m, hm, -⟩ := h; cases hm
  intro f
  cases f <;> exact ⟨by decide, by decide, by decide, by decide, h _, by decide, by decide, rfl⟩

theorem witness_CmdIsCmdaWithoutArguments : (cmdState Params.default).phase ≠ .idle := by decide

theorem witness_TransportRequestsRunWhole :
    rddState.Accepted (encode (.rdd 1)) ∧ decode (encode (.rdd 1)) = .instr (.rdd 1) ∧
    planOf rddState.params (.rdd 1) = .pass (.frames [[0x1000#16, 0#16, 0#16]]) ∧
    [(⟨0, 0xDE#8, 0xAD#8⟩ : WordDraw), ⟨0, 0xBE#8, 0xEF#8⟩, ⟨0, 0x06#8, 0x2C#8⟩].length =
      wordCount [[0x1000#16, 0#16, 0#16]] ∧
    gatesPass rddState.params [⟨0, 0xDE#8, 0xAD#8⟩, ⟨0, 0xBE#8, 0xEF#8⟩, ⟨0, 0x06#8, 0x2C#8⟩] ∧
    rddState.DevAnswers [⟨0, 0xDE#8, 0xAD#8⟩, ⟨0, 0xBE#8, 0xEF#8⟩, ⟨0, 0x06#8, 0x2C#8⟩] [] := by decide

/-- V34: the first gate passes, the second reads 0, T = 1. -/
def v34State : State := accepted (params (some 1) none none) (encode (.cmd 1)) (dev [true, false] [1#8, 2#8])

theorem witness_TimeoutEndsTheRequest :
    v34State.Accepted (encode (.cmd 1)) ∧ decode (encode (.cmd 1)) = .instr (.cmd 1) ∧
    planOf v34State.params (.cmd 1) = .pass (.frames [[0x6000#16, 1#16]]) ∧
    v34State.params.readyTimeoutPolls = some 1 ∧
    [(⟨0, 1#8, 2#8⟩ : WordDraw)].length < wordCount [[0x6000#16, 1#16]] ∧
    gatesPass v34State.params [⟨0, 1#8, 2#8⟩] ∧
    v34State.DevAnswers [⟨0, 1#8, 2#8⟩] (List.replicate 1 false) := by decide

theorem witness_AcceptanceLatchesTheRequest :
    State.reset.phase = .idle ∧ State.reset.env.resetN = [] ∧ State.reset.env.requests = [] ∧
    (withRequests [encode (.cmd 0x10000)] State.reset).env.requests = encode (.cmd 0x10000) :: [] ∧
    (encode (.cmd 0x10000)).fits (withRequests [encode (.cmd 0x10000)] State.reset).params.hostValueWidth = true := by
  decide

theorem witness_RespondClearsWhatWasReceived :
    ({ finished (.cmd 1) Response.blank with rxq := [1#16], rxhi := 0xA5#8 } : State).phase = .done := by decide

/-- 41_transport.md R129: respond clears RXHI. -/
theorem test_respond_clears : after (fun t => (t.rxq, t.rxhi)) (exec (.cmd 1)
    { finished (.cmd 1) Response.blank with rxq := [1#16], rxhi := 0xA5#8 }) = some ([], 0#8) := by decide

theorem witness_RespondWritesTheRegisters : (finished (.cmd 1) ⟨.rangeError, [], [], 0⟩).phase = .done := by decide

theorem witness_GateSamplesReady :
    (∀ h : Bool, (inCmd (params (some 2) none none) .gate 0 (dev [h] [])).phase = .gate ∧
      (inCmd (params (some 2) none none) .gate 0 (dev [h] [])).csN = false ∧
      (inCmd (params (some 2) none none) .gate 0 (dev [h] [])).env.hrdy = h :: []) ∧
    (∀ T ∈ (params (some 2) none none).readyTimeoutPolls, 0 + 1 < T) ∧
    (∃ T ∈ (params (some 1) none none).readyTimeoutPolls, T ≤ 0 + 1) :=
  ⟨by decide, fun T h => by cases h; decide, 1, rfl, by decide⟩

theorem witness_WordGoesHighByteFirst : ∀ widx ∈ [0, 1],
    (inCmd Params.default .xferHi widx (dev [] [1#8, 2#8])).phase = .xferHi ∧
    (inCmd Params.default .xferHi widx (dev [] [1#8, 2#8])).word? = [0x6000#16, 0x0302#16][widx]? ∧
    (inCmd Params.default .xferHi widx (dev [] [1#8, 2#8])).env.miso = 1#8 :: 2#8 :: [] ∧
    ((inCmd Params.default .xferHi widx (dev [] [])).widx + 1 <
      (inCmd Params.default .xferHi widx (dev [] [])).frame.length ↔ widx = 0) := by decide

/-- V34 after its timed out gate: the frame is still to be ended. -/
def abortedState : State :=
  { inCmd (params (some 1) none none) .deassert 1 (dev [] []) with
    outcome := ⟨.deviceNotResponding, [], [], 1⟩, polls := 1 }

/-- CMDA 0x0039, [1] under TWO_FRAMES, its command frame sent. -/
def firstFrameSent : State :=
  { cmdaState .twoFrames with
    frames := [[0x6000#16, 0x0039#16], [0x0000#16, 0x0001#16]], phase := .deassert, csN := false, widx := 2, sent := 2
    rxq := [0#16, 0#16] }

theorem witness_ChipSelectFramesTheWords :
    { inCmd Params.default .assert 0 (dev [] []) with csN := true }.phase = .assert ∧
    (inCmd Params.default .deassert 2 (dev [] [])).phase = .deassert ∧
    (inCmd Params.default .deassert 2 (dev [] [])).csN = false ∧
    (inCmd Params.default .deassert 2 (dev [] [])).outcome.status = .ok ∧
    (inCmd Params.default .deassert 2 (dev [] [])).frames.length ≤ 0 + 1 ∧
    abortedState.phase = .deassert ∧ abortedState.csN = false ∧ abortedState.outcome.status ≠ .ok ∧
    firstFrameSent.phase = .deassert ∧ firstFrameSent.csN = false ∧ firstFrameSent.outcome.status = .ok ∧
    firstFrameSent.fidx + 1 < firstFrameSent.frames.length := by decide

theorem witness_StepChangesOnlyItsOwn : ∀ ph : Phase, ph ≠ .idle →
    ∃ t, exec (.cmd 0x0302) (inCmd Params.default ph 1 (dev [true] [1#8])) = .next t := by
  intro ph
  cases ph <;> first | (intro h; exact absurd rfl h) | exact fun _ => ⟨_, rfl⟩

theorem witness_StepAppendsItsOneEvent : ∀ ph : Phase,
    ∃ t, step (inCmd Params.default ph 1 (dev [true] [1#8])) = .next t := by
  intro ph
  cases ph <;> exact ⟨_, rfl⟩

theorem witness_ParametersNeverChange : ∃ t, step (withResetN [false] (cmdState Params.default)) = .next t := ⟨_, rfl⟩

theorem witness_BusyControllerTakesNoRequest :
    (∃ t, step (cmdState Params.default) = .next t) ∧ (cmdState Params.default).phase ≠ .idle ∧
    (cmdState Params.default).env.resetN.head? ≠ some false ∧ (cmdState Params.default).phase ≠ .done ∧
    State.reset.phase = .idle ∧ State.reset.env.resetN = [] ∧
    (withRequests [encode (.cmd 2)] State.reset).env.requests = encode (.cmd 2) :: [] ∧
    (encode (.cmd 2)).fits State.reset.params.hostValueWidth = true :=
  ⟨⟨_, rfl⟩, by decide, by decide, by decide, by decide, by decide, by decide, by decide⟩

theorem witness_ResetValues :
    (withResetN [false] State.reset).csN = true ∧ (withResetN [false] State.reset).env.resetN = false :: [] := by decide

theorem witness_OneResponsePerRequest :
    (∃ t, step (finished (.cmd 1) Response.blank) = .next t) ∧ (finished (.cmd 1) Response.blank).phase = .done ∧
    (finished (.cmd 1) Response.blank).env.resetN.head? ≠ some false ∧
    (∃ t, step (withResetN [false] (finished (.cmd 1) Response.blank)) = .next t) ∧
    (withResetN [false] (finished (.cmd 1) Response.blank)).env.resetN.head? = some false :=
  ⟨⟨_, rfl⟩, by decide, by decide, ⟨_, rfl⟩, by decide⟩

theorem witness_ResetTakesEffectAtOnce :
    (withResetN [false, true] (inCmd Params.default .xferLo 0 (dev [] []))).env.resetN = false :: [true] := by decide

theorem witness_ResetReleaseAcceptsNext :
    (withRequests [encode (.cmd 2)] (withResetN [false] (cmdState Params.default))).env.resetN = [false] ∧
    (withRequests [encode (.cmd 2)] (withResetN [false] (cmdState Params.default))).env.requests =
      encode (.cmd 2) :: [] ∧
    (encode (.cmd 2)).fits Params.default.hostValueWidth = true := by decide

theorem witness_LaunchMeetsInvariant :
    (params (some 1) (some 1) (some 17)).wf = true ∧
    [encode (.wrd [0x1FFFF]), encode (.rdd 3)].all (Request.fits (some 17)) = true := by decide

/-- CMD 0x0302 before its opcode word: one word sent, the gate passed, T = 2. -/
def wordState (ph : Phase) : State :=
  { inCmd (params (some 2) none none) ph 1 (dev [false] [0xA5#8]) with
    sent := 1, trace := [.csl, .poll true, .xfer 0x60#8 0#8, .xfer 0x00#8 0#8, .poll true] }

theorem wordState_inv : (wordState .xferHi).Inv :=
  ⟨by decide, by decide, by decide, by decide, by decide, by decide, by decide, by decide⟩

theorem witness_InvariantIsKept :
    State.reset.Inv ∧ (cmdState (params (some 1) none none)).Inv ∧ (wordState .gate).Inv :=
  ⟨⟨by decide, by decide, by decide, by decide, by decide, by decide, by decide, by decide⟩,
    ⟨by decide, by decide, by decide, by decide, by decide, by decide, by decide, by decide⟩,
    ⟨by decide, by decide, by decide, by decide, by decide, by decide, by decide, by decide⟩⟩

theorem witness_TraceIsTheWireImage :
    (wordState .xferHi).Inv ∧ (wordState .xferHi).WireInv ∧ ∃ t, step (wordState .xferHi) = .next t :=
  ⟨wordState_inv, by decide, _, rfl⟩

theorem witness_EveryRunGoesOn :
    Params.default.wf = true ∧ [encode (.cmd 0x10000)].all (Request.fits Params.default.hostValueWidth) = true := by
  decide

theorem witness_GateWithoutTimeoutHangs :
    (inCmd Params.default .gate 0 (dev [false, false, true] [])).Inv ∧
    (inCmd Params.default .gate 0 (dev [false, false, true] [])).phase = .gate ∧
    (inCmd Params.default .gate 0 (dev [false, false, true] [])).params.readyTimeoutPolls = none ∧
    (inCmd Params.default .gate 0 (dev [false, false, true] [])).env.resetN = [] ∧
    List.replicate 2 false <+: (inCmd Params.default .gate 0 (dev [false, false, true] [])).env.hrdy :=
  ⟨⟨by decide, by decide, by decide, by decide, by decide, by decide, by decide, by decide⟩,
    by decide, by decide, by decide, by decide⟩

theorem witness_FiniteTimeoutEndsEveryRequest :
    (inCmd (params (some 3) none none) .gate 0 (dev [] [])).Inv ∧
    (inCmd (params (some 3) none none) .gate 0 (dev [] [])).phase ≠ .idle ∧
    (inCmd (params (some 3) none none) .gate 0 (dev [] [])).env.resetN = [] ∧
    (inCmd (params (some 3) none none) .gate 0 (dev [] [])).params.readyTimeoutPolls = some 3 :=
  ⟨⟨by decide, by decide, by decide, by decide, by decide, by decide, by decide, by decide⟩,
    by decide, by decide, by decide⟩

theorem witness_ReceivedBytesAreDiscarded :
    (inCmd Params.default .xferHi 0 (dev [] [1#8])).eraseRx = (inCmd Params.default .xferHi 0 (dev [] [2#8])).eraseRx ∧
    (inCmd Params.default .xferHi 0 (dev [] [1#8])).reqLatch = some (encode (.cmd 0x0302)) ∧
    decode (encode (.cmd 0x0302)) = .instr (.cmd 0x0302) ∧
    ∃ t, step (inCmd Params.default .xferHi 0 (dev [] [1#8])) = .next t :=
  ⟨by decide, by decide, by decide, _, rfl⟩

theorem witness_NothingReceivedCausesAnError :
    ({ rddState with outcome := ⟨.ok, [1#16], [], 0⟩, phase := .done } : State).eraseRxAndWords =
      ({ rddState with outcome := ⟨.ok, [2#16], [], 0⟩, phase := .done } : State).eraseRxAndWords ∧
    ∃ t, step { rddState with outcome := ⟨.ok, [1#16], [], 0⟩, phase := .done } = .next t :=
  ⟨by decide, _, rfl⟩

/-- R19 to the letter: after a failed sample POLLS is not counted yet, and the next step counts it. -/
theorem test_late_poll :
    (match lateSteps 1 { state := inCmd (params (some 3) none none) .gate 0 (dev [false] []), due := .none } with
      | .next l => some (l.state.polls, l.due, l.caughtUp.polls)
      | _ => none) = some (0, .sampled false, 1) := by decide

theorem witness_BookkeepingPlaceIsUnobservable :
    ∃ l, lateSteps 1 { state := inCmd Params.default .gate 0 (dev [true] []), due := .none } = .next l := ⟨_, rfl⟩

/-- WRD [] as the whole program. -/
def emptyProgram : State := State.launch Params.default { dev [] [] with requests := [encode (.wrd [])] }

/-- R182: WRD [] is answered in three steps, and the run is over, however long it is followed. -/
theorem test_run_ends :
    ((runFor 3 emptyProgram).observation, (runFor 2 emptyProgram).observation, (runFor 9 emptyProgram).observation) =
      (some ⟨[], [Response.blank]⟩, none, some ⟨[], [Response.blank]⟩) := by decide

/-- V58: the reset cuts the run, which has no final state. -/
theorem test_run_cut :
    (runFor 5 { inCmd Params.default .xferLo 0 { dev [] [] with resetN := [false] } with trace := [.csl] }).final =
      none := by decide

theorem witness_RunEndsAfterLastResponse :
    Params.default.wf = true ∧ [encode (.wrd []), encode (.cmd 1)].all (Request.fits none) = true ∧
    (∀ level ∈ [true, true], level = true) ∧ (∃ s, runFor 3 emptyProgram = .ended s) :=
  ⟨by decide, by decide, by decide, _, rfl⟩

theorem witness_RunInProgressIsNotOver :
    (∃ s, runFor 3 emptyProgram = .ended s) ∧
    (inCmd Params.default .gate 0 (dev [false, false] [])).Inv ∧
    (inCmd Params.default .gate 0 (dev [false, false] [])).phase = .gate ∧
    (inCmd Params.default .gate 0 (dev [false, false] [])).params.readyTimeoutPolls = none ∧
    (inCmd Params.default .gate 0 (dev [false, false] [])).env.resetN = [] ∧
    List.replicate 2 false <+: (inCmd Params.default .gate 0 (dev [false, false] [])).env.hrdy ∧
    (∃ t, runFor 1 (withResetN [true, false] (cmdState Params.default)) = .going t ∧ t.env.resetN = false :: []) :=
  ⟨⟨_, rfl⟩, ⟨by decide, by decide, by decide, by decide, by decide, by decide, by decide, by decide⟩,
    by decide, by decide, by decide, by decide, _, rfl, rfl⟩

theorem witness_FiniteTimeoutEndsTheRun :
    (params (some 2) none none).wf = true ∧ [encode (.rdd 1), encode (.cmd 1)].all (Request.fits none) = true ∧
    (dev [] []).resetN = [] ∧ (params (some 2) none none).readyTimeoutPolls = some 2 := by decide

theorem witness_NextRunStartsAtLaunch :
    (withResetN [false, true] (inCmd Params.default .gate 1 (dev [] []))).env.resetN = false :: [true] := by decide

end Sys2Proof.Tests
end

section
/-! PROOF. The place of the bookkeeping (00_scope.md R19; log 1) is unobservable: the two controllers run in step, and what
HOST and DEV see of a state does not depend on whether its bookkeeping is done. -/

namespace Sys2Proof.Machine

/-! The two controllers run in step. -/

/-- A step answers a next state, caught up, exactly if it leaves a state that catches up to it. -/
theorem catchUp_eq_next {r : LateResult} {t : State} :
    catchUp r = .next t ↔ ∃ l, r = .next l ∧ l.caughtUp = t := by
  cases r with
  | next l => simp [catchUp]
  | fault f => simp [catchUp]
  | refused f => simp [catchUp]

/-- `step_caughtUp` for any number of steps. -/
theorem steps_caughtUp (k : Nat) (l : Late) : steps k l.caughtUp = catchUp (lateSteps k l) := by
  induction k generalizing l with
  | zero => rfl
  | succ k ih =>
    simp only [steps, lateSteps, step_caughtUp]
    cases lateStep l with
    | next m => exact ih m
    | fault f => rfl
    | refused f => rfl

/-! Bookkeeping is due only outside IDLE. STAT.BUSY needs this: bookkeeping done in IDLE could lead out of it. -/

/-- Either nothing is due, or the registers are in a phase other than IDLE. -/
def Late.DueOutsideIdle (l : Late) : Prop := l.due = .none ∨ l.state.phase ≠ .idle

/-- A primitive that leaves bookkeeping leaves PHASE to it. -/
theorem primitive_phase {r : Recipe} {s t : State} {b : Bookkeeping} (h : primitive r s = .next (t, b)) :
    b = .none ∨ t.phase = s.phase := by
  unfold primitive at h
  cases hp : s.phase <;> rw [hp] at h
  case idle =>
    simp only [acceptPrimitive] at h
    split at h <;> cases h
    exact .inl rfl
  case xferHi =>
    simp only [xferHiPrimitive] at h
    split at h <;> cases h
    exact .inr hp
  case xferLo =>
    simp only [xferLoPrimitive] at h
    split at h <;> cases h
    exact .inr hp
  case done =>
    cases h
    exact .inl rfl
  all_goals
    cases h
    exact .inr hp

theorem nothingDue_dueOutsideIdle {r : StepResult} {m : Late} (h : nothingDue r = .next m) : m.DueOutsideIdle := by
  cases r <;> cases h
  exact .inl rfl

theorem leaveDue_dueOutsideIdle {r : Recipe} {s : State} {m : Late} (hp : s.phase ≠ .idle)
    (h : leaveDue (primitive r s) = .next m) : m.DueOutsideIdle := by
  cases hr : primitive r s with
  | next p =>
    obtain ⟨t, b⟩ := p
    rw [hr] at h
    cases h
    exact (primitive_phase hr).imp_right fun ht => by simpa [ht] using hp
  | fault f => rw [hr] at h; cases h
  | refused f => rw [hr] at h; cases h

theorem latePrimitive_dueOutsideIdle {s : State} {m : Late} (h : latePrimitive s = .next m) : m.DueOutsideIdle := by
  unfold latePrimitive at h
  split at h
  · exact nothingDue_dueOutsideIdle h
  · split at h
    · cases h
    · exact leaveDue_dueOutsideIdle ‹_› h

/-- Every step leaves bookkeeping only outside IDLE, whatever was due before it. -/
theorem lateStep_dueOutsideIdle {l m : Late} (h : lateStep l = .next m) : m.DueOutsideIdle := by
  unfold lateStep at h
  split at h
  · exact latePrimitive_dueOutsideIdle h
  · split at h
    · exact latePrimitive_dueOutsideIdle h
    · cases h
      exact .inl rfl

theorem lateSteps_dueOutsideIdle {k : Nat} {l m : Late} (hl : l.DueOutsideIdle) (h : lateSteps k l = .next m) :
    m.DueOutsideIdle := by
  induction k generalizing l with
  | zero => cases h; exact hl
  | succ k ih =>
    unfold lateSteps at h
    split at h
    · exact ih (lateStep_dueOutsideIdle ‹_›) h
    · cases h
    · cases h

/-! What is seen of a state whose bookkeeping is due. -/

theorem Late.DueOutsideIdle.busy_caughtUp {l : Late} (h : l.DueOutsideIdle) : l.caughtUp.busy = l.state.busy := by
  rcases h with hn | hp
  · simp [Late.caughtUp, hn]
  · simp [State.busy, Late.caughtUp, hp, l.due.perform_phase l.state hp]

theorem Late.DueOutsideIdle.stat_caughtUp {l : Late} (h : l.DueOutsideIdle) : l.caughtUp.stat = l.state.stat := by
  have hc : l.caughtUp.code = l.state.code := by simp [Late.caughtUp, l.due.perform_frame l.state]
  rw [State.stat, State.stat, h.busy_caughtUp, hc]

/-- Settles O54: the runs agree step by step (`steps_caughtUp`); bookkeeping writes no visible register
(`Bookkeeping.perform_frame`), and as none is due in IDLE it does not change STAT.BUSY either. -/
theorem bookkeepingPlaceIsUnobservable : Obligations.BookkeepingPlaceIsUnobservable := by
  unfold Obligations.BookkeepingPlaceIsUnobservable
  intro s k
  refine ⟨fun t => ?_, fun l hl => ?_⟩
  · rw [← catchUp_eq_next, ← steps_caughtUp]
    rfl
  · have hstat := (lateSteps_dueOutsideIdle (.inl rfl) hl).stat_caughtUp
    rw [hstat]
    simp [Late.caughtUp, l.due.perform_frame l.state]

end Sys2Proof.Machine
end

section
/-! PROOF. The moves of Laws/Moves.lean as steps: a move is taken, what every move leaves alone, the one event a move
appends to TRACE, and the statements about single steps that follow. -/

namespace Sys2Proof.Machine

/-! A move is the step: the converse of `runStep_move` and `step_move`. -/

theorem runStep_of_move {s u : State} (h : RunMove s u) : runStep s = .next (floatMosi u) := by
  cases h with
  | wait hp hq => simp [runStep_idle hp, idleStep, hq]
  | take r rest hp hq hf => simp [runStep_idle hp, idleStep, hq, Machine.accept, hf]
  | latched r _ hp hr hm => rw [runStep_latched hp hr, latchedStep_eq_runPhase, runPhase_of_move hm]

theorem step_of_stepMove {s t : State} (h : StepMove s t) : step s = .next t := by
  cases h with
  | free u hn hm => rw [step_of_resetN_nil hn, runStep_of_move hm]
  | released rest u hn hm => rw [step_of_resetN_high hn, runStep_of_move hm]
  | reset rest hn => exact step_of_resetN_low hn

/-! What every move leaves alone. -/

theorem Move.params {r : Recipe} {s t : State} (hm : Move r s t) : t.params = s.params := by
  cases hm <;> rfl

theorem Move.requests {r : Recipe} {s t : State} (hm : Move r s t) : t.env.requests = s.env.requests := by
  cases hm <;> simp

theorem Move.resetN {r : Recipe} {s t : State} (hm : Move r s t) : t.env.resetN = s.env.resetN := by
  cases hm <;> simp

theorem RunMove.params {s t : State} (hm : RunMove s t) : t.params = s.params := by
  cases hm with
  | latched r _ _ _ hm => exact hm.params
  | _ => rfl

theorem StepMove.params {s t : State} (hm : StepMove s t) : t.params = s.params := by
  cases hm with
  | free u _ hm => exact hm.params
  | released rest u _ hm => exact hm.params
  | reset => rfl

/-- Settles O37: no move writes the parameters, and a reset keeps them. -/
theorem parametersNeverChange : Obligations.ParametersNeverChange := by
  unfold Obligations.ParametersNeverChange
  intro s t h
  exact (step_move h).params

/-- Settles O35: a step of a request is one of its moves, each in its own phase, and the field lemmas of Laws/State.lean
say which registers that move writes. -/
theorem stepChangesOnlyItsOwn : Obligations.StepChangesOnlyItsOwn := by
  unfold Obligations.StepChangesOnlyItsOwn
  intro i s t h
  obtain ⟨u, hm, rfl⟩ := exec_move h
  refine ⟨⟨hm.params, hm.requests, hm.resetN⟩, ?_⟩
  cases hm <;> simp [‹s.phase = _›]

/-! TRACE grows by the event the phase names (10_state.md R40). -/

/-- `e` is an event the phase of `s` names, in a step to `t` that is no reset. -/
def PhaseEvent (s t : State) (e : BusEvent) : Prop :=
  (e = .csl ∧ s.phase = .assert ∧ s.csN = true ∧ t.csN = false) ∨
  (e = .csh ∧ s.csN = false ∧ t.csN = true ∧ s.phase = .deassert) ∨
  (∃ h, e = .poll h ∧ s.phase = .gate) ∨
  (∃ w b, e = .xfer (hi w) b ∧ s.phase = .xferHi ∧ s.word? = some w) ∨
  (∃ w b, e = .xfer (lo w) b ∧ s.phase = .xferLo ∧ s.word? = some w)

/-- From `s` to `t`, TRACE is unchanged or grows by one event of the phase. -/
def AppendsPhaseEvent (s t : State) : Prop :=
  t.trace = s.trace ∨ ∃ e, t.trace = s.trace ++ [e] ∧ PhaseEvent s t e

theorem appendsPhaseEvent_of_assert {s t : State} (hp : s.phase = .assert) (ht : t.csN = false)
    (h : t.trace = s.trace ++ csEvents s.csN false) : AppendsPhaseEvent s t := by
  cases hc : s.csN with
  | false => exact .inl (by simpa [hc] using h)
  | true => exact .inr ⟨.csl, by simpa [hc] using h, .inl ⟨rfl, hp, hc, ht⟩⟩

theorem appendsPhaseEvent_of_deassert {s t : State} (hp : s.phase = .deassert) (ht : t.csN = true)
    (h : t.trace = s.trace ++ csEvents s.csN true) : AppendsPhaseEvent s t := by
  cases hc : s.csN with
  | true => exact .inl (by simpa [hc] using h)
  | false => exact .inr ⟨.csh, by simpa [hc] using h, .inr (.inl ⟨rfl, hc, ht, hp⟩)⟩

theorem appendsPhaseEvent_of_gate {s t : State} {h : Bool} (hp : s.phase = .gate)
    (ht : t.trace = s.trace ++ [.poll h]) : AppendsPhaseEvent s t :=
  .inr ⟨_, ht, .inr (.inr (.inl ⟨h, rfl, hp⟩))⟩

theorem appendsPhaseEvent_of_xferHi {s t : State} {w : Word} {b : Byte} (hp : s.phase = .xferHi) (hw : s.word? = some w)
    (ht : t.trace = s.trace ++ [.xfer (hi w) b]) : AppendsPhaseEvent s t :=
  .inr ⟨_, ht, .inr (.inr (.inr (.inl ⟨w, b, rfl, hp, hw⟩)))⟩

theorem appendsPhaseEvent_of_xferLo {s t : State} {w : Word} {b : Byte} (hp : s.phase = .xferLo) (hw : s.word? = some w)
    (ht : t.trace = s.trace ++ [.xfer (lo w) b]) : AppendsPhaseEvent s t :=
  .inr ⟨_, ht, .inr (.inr (.inr (.inr ⟨w, b, rfl, hp, hw⟩)))⟩

theorem Move.appendsPhaseEvent {r : Recipe} {s t : State} (hm : Move r s t) : AppendsPhaseEvent s t := by
  cases hm with
  | assert hp => exact appendsPhaseEvent_of_assert hp rfl rfl
  | gatePass hp | gateTimeout hp | gateWait hp => exact appendsPhaseEvent_of_gate hp rfl
  | xferHi w hp hw => exact appendsPhaseEvent_of_xferHi hp hw rfl
  | nextWord w hp hw | lastWord w hp hw => exact appendsPhaseEvent_of_xferLo hp hw rfl
  | endAborted hp | nextFrame hp | lastFrame hp => exact appendsPhaseEvent_of_deassert hp rfl rfl
  | _ => exact .inl rfl

theorem RunMove.appendsPhaseEvent {s t : State} (hm : RunMove s t) : AppendsPhaseEvent s t := by
  cases hm with
  | latched r _ _ _ hm => exact hm.appendsPhaseEvent
  | _ => exact .inl rfl

/-- A step appends the event of its phase, or is a reset, which appends what deasserting CS_N does. -/
theorem StepMove.appendsPhaseEvent_or_reset {s t : State} (hm : StepMove s t) :
    AppendsPhaseEvent s t ∨
      (s.env.resetN.head? = some false ∧ t.csN = true ∧ t.trace = s.trace ++ csEvents s.csN true) := by
  cases hm with
  | free u _ hm => exact .inl hm.appendsPhaseEvent
  | released rest u _ hm => exact .inl hm.appendsPhaseEvent
  | reset rest hn => exact .inr ⟨by simp [hn], rfl, rfl⟩

/-- Settles O36: by the event of each move, and for a reset by the level CS_N had. -/
theorem stepAppendsItsOneEvent : Obligations.StepAppendsItsOneEvent := by
  unfold Obligations.StepAppendsItsOneEvent
  intro s t h
  rcases (step_move h).appendsPhaseEvent_or_reset with (ht | ⟨e, ht, he⟩) | ⟨hn, hct, ht⟩
  · exact .inl ht
  · exact .inr ⟨e, ht, he.imp_right <| Or.imp_left fun ⟨he, hc, hct, hp⟩ => ⟨he, hc, hct, .inl hp⟩⟩
  · cases hc : s.csN with
    | true => exact .inl (by simpa [hc] using ht)
    | false => exact .inr ⟨.csh, by simpa [hc] using ht, .inr (.inl ⟨rfl, rfl, hct, .inr hn⟩)⟩

/-! Single steps: the latched request, acceptance, respond, reset; and STAT. -/

/-- Settles O8: outside IDLE the step is `latchedStep`, which runs what the record decodes to. -/
theorem stepRunsLatchedRequest : Obligations.StepRunsLatchedRequest := by
  unfold Obligations.StepRunsLatchedRequest
  intro s r i hp hr hd
  have run (u : State) (hp : u.phase ≠ .idle) (hr : u.reqLatch = some r) : runStep u = exec i u := by
    rw [runStep_latched hp hr, latchedStep, hd]
  exact ⟨fun hn => by rw [step_of_resetN_nil hn, run s hp hr],
    fun rest hn => by rw [step_of_resetN_high hn, run (withResetN rest s) hp hr]⟩

theorem decode_of_decodeTableWord {nbits w : Nat} {i : Instr} (h : decodeTableWord nbits w = some i) :
    decode (requestOfTableWord nbits w) = .instr i := by
  unfold decodeTableWord at h
  split at h
  · split at h
    · cases h; assumption
    · cases h
    · cases h
  · cases h

/-- Settles O9: the placed word is a latched record, whose step `stepRunsLatchedRequest` gives. -/
theorem placedWordRunsNext : Obligations.PlacedWordRunsNext := by
  unfold Obligations.PlacedWordRunsNext
  intro s w i h
  have hp : (s.withFetchWord 16 w).phase = .validate := rfl
  obtain ⟨hrun, -⟩ := stepRunsLatchedRequest (s.withFetchWord 16 w) _ i (by simp [hp]) rfl (decode_of_decodeTableWord h)
  exact ⟨hp, hrun rfl⟩

/-- Settles O30: in IDLE the step is `wait` or `take`; in any other phase it is a move of the latched request, and no
move touches the requests HOST presents. -/
theorem acceptanceLatchesTheRequest : Obligations.AcceptanceLatchesTheRequest := by
  unfold Obligations.AcceptanceLatchesTheRequest
  intro s hn
  refine ⟨fun hp hq => ?_, fun r rest hp hq hf => ?_, fun t hp h => ?_⟩
  · exact ⟨_, step_of_stepMove (.free s hn (.wait hp hq)), _, _, rfl⟩
  · refine ⟨_, step_of_stepMove (.free _ hn (.take r rest hp hq hf)), ?_⟩
    simp
  · cases step_move h with
    | free u _ hm =>
      cases hm with
      | wait hp' => exact absurd hp' hp
      | take r rest hp' => exact absurd hp' hp
      | latched r _ _ _ hm => exact hm.requests
    | released rest u hn' => simp [hn] at hn'
    | reset rest hn' => simp [hn] at hn'

/-- Settles O31: the step of DONE is `respond` for every request, and its field lemmas give each register. -/
theorem respondWritesTheRegisters : Obligations.RespondWritesTheRegisters := by
  unfold Obligations.RespondWritesTheRegisters
  intro i s hp
  refine ⟨_, exec_of_move (.respond hp), ?_⟩
  simp [State.busy]

/-- Settles O40: bit by bit from `getLsbD_stat`. -/
theorem statFields : Obligations.StatFields := by
  unfold Obligations.StatFields
  intro s
  refine ⟨?_, ?_, ?_, rfl, rfl, rfl, rfl⟩
  · apply BitVec.eq_of_getLsbD_eq
    intro i hi
    simp [getLsbD_stat, hi]
  · rw [getLsbD_stat]
    simp [State.busy]
  · apply BitVec.eq_of_getLsbD_eq
    intro i hi
    simp [getLsbD_stat, show ¬ 4 + i < 3 by omega, show 4 + i ≠ 3 by omega]

/-- Settles O42: the values of `State.reset`, and no event of SetCS where CS_N is 1 already. -/
theorem resetValues : Obligations.ResetValues := by
  unfold Obligations.ResetValues
  refine ⟨by decide, fun s rest hc hn => ⟨_, step_of_resetN_low hn, ?_⟩⟩
  simp [hc]

end Sys2Proof.Machine
end

section
/-! PROOF. The invariant of the controller: from a state that meets it there is a step (10_state.md R41), and every
move, acceptance and reset keeps it. Each part of the invariant has its own lemma. -/

namespace Sys2Proof.Machine

/-! There is a step. -/

/-- A request in progress has a move in every phase; in the transfers of a word this needs the word. -/
theorem exists_move (r : Recipe) {s : State} (hp : s.phase ≠ .idle)
    (hw : s.phase.inWord = true → s.widx < s.frame.length) : ∃ t, Move r s t := by
  have word (h : s.phase.inWord = true) : ∃ w, s.word? = some w := ⟨_, List.getElem?_eq_getElem (hw h)⟩
  cases hph : s.phase with
  | idle => exact absurd hph hp
  | validate =>
    match hc : r.plan s.params with
    | .raise e info => exact ⟨_, .refuse e info hph hc⟩
    | .pass .codec => exact ⟨_, .toCodec hph hc⟩
    | .pass (.frames []) => exact ⟨_, .noFrames hph hc⟩
    | .pass (.frames (f :: fs)) => exact ⟨_, .toFrames f fs hph hc⟩
  | codec => exact ⟨_, .codec hph⟩
  | assert => exact ⟨_, .assert hph⟩
  | gate => exact ⟨_, gate_move hph⟩
  | xferHi =>
    obtain ⟨w, hs⟩ := word (by rw [hph]; rfl)
    exact ⟨_, .xferHi w hph hs⟩
  | xferLo =>
    obtain ⟨w, hs⟩ := word (by rw [hph]; rfl)
    rcases Nat.lt_or_ge (s.widx + 1) s.frame.length with hl | hl
    · exact ⟨_, .nextWord w hph hs hl⟩
    · exact ⟨_, .lastWord w hph hs hl⟩
  | deassert => exact ⟨_, deassert_move hph⟩
  | done => exact ⟨_, .respond hph⟩

theorem exists_runMove {s : State} (h : s.Inv) : ∃ u, RunMove s u := by
  obtain ⟨-, -, ⟨hlatch, -, hfit⟩, -, ⟨-, -, -, hplace, -⟩, -⟩ := h
  by_cases hp : s.phase = .idle
  · match hq : s.env.requests with
    | [] => exact ⟨_, .wait hp hq⟩
    | r :: rest =>
      rw [hq, List.all_cons, Bool.and_eq_true] at hfit
      exact ⟨_, .take r rest hp hq hfit.1⟩
  · obtain ⟨r, hr⟩ : ∃ r, s.reqLatch = some r := Option.isSome_iff_exists.1 (by simp [hlatch, hp])
    obtain ⟨u, hm⟩ := exists_move (recipeOfRequest s r) hp hplace
    exact ⟨u, .latched r u hp hr hm⟩

/-- The invariant does not speak of RESET_N, so it holds of `withResetN rest s` as it does of `s`. -/
theorem exists_stepMove {s : State} (h : s.Inv) : ∃ t, StepMove s t := by
  match hn : s.env.resetN with
  | [] =>
    obtain ⟨u, hm⟩ := exists_runMove h
    exact ⟨_, .free u hn hm⟩
  | true :: rest =>
    obtain ⟨u, hm⟩ := exists_runMove (s := withResetN rest s) h
    exact ⟨_, .released rest u hn hm⟩
  | false :: rest => exact ⟨_, .reset rest hn⟩

/-! Facts about plans, frames and results. -/

theorem Phase.framed_of_selected {p : Phase} (h : p.selected = true) : p.framed = true := by
  simp [Phase.framed, h]

theorem planOk_iff {s : State} {r : Request} (hr : s.reqLatch = some r) :
    s.PlanOk ↔ (s.phase = .codec → planOfRequest s.params r = .pass .codec) ∧
      (s.phase.framed = true → planOfRequest s.params r = .pass (.frames s.frames)) := by
  simp [State.PlanOk, State.plan, hr]

theorem planOfRequest_raise_ne_ok {p : Params} {r : Request} {e : Status} {info : Nat}
    (h : planOfRequest p r = .raise e info) : e ≠ .ok ∧ e ≠ .deviceNotResponding := by
  unfold planOfRequest at h
  split at h
  · exact planOf_raise_ne_ok h
  all_goals
    cases h
    simp

/-- The frame in progress has a word: BuildFrames builds no empty frame (`frames_ne_nil`). -/
theorem frame_length_pos {s : State} (hplan : s.PlanOk) (hf : s.phase.framed = true)
    (hl : s.fidx < s.frames.length) : 0 < s.frame.length := by
  obtain ⟨-, hframes⟩ := hplan
  have hpass := hframes hf
  unfold State.plan at hpass
  split at hpass
  · obtain ⟨i, -, hi⟩ := planOfRequest_pass hpass
    have := frames_ne_nil hi s.frames[s.fidx] (by simp)
    simpa [State.frame, hl, List.length_pos_iff] using this
  · cases hpass

theorem wordCount_take_succ {fs : List (List Word)} {k : Nat} (h : k < fs.length) :
    wordCount (fs.take (k + 1)) = wordCount (fs.take k) + (fs.getD k []).length := by
  rw [List.take_add_one]
  simp [wordCount, h]

/-- What CODEC answers has the lengths its request asks for (40_wire_codec.md R102). -/
theorem codec_lengths {s : State} {r : Request} {i : Instr} (hd : decode r = .instr i)
    (h : planOf s.params i = .pass .codec) :
    (recipeOfRequest s r).codecWords.length = okWords i ∧ (recipeOfRequest s r).codecBytes.length = okBytes i := by
  cases i with
  | w2b ws => simp [recipeOfRequest, hd, recipeOf, okWords, okBytes, wordsOfHost]
  | b2w bs => simp [recipeOfRequest, hd, recipeOf, okWords, okBytes, length_pairBytes]
  | _ => simpa using planOf_pass_cases h

/-- A request with frames is no codec request: only RDD has result words, and none has result bytes. -/
theorem okLengths_of_frames {p : Params} {i : Instr} {fs : List (List Word)} (h : planOf p i = .pass (.frames fs)) :
    okBytes i = 0 ∧ ((∃ n, i = .rdd n ∧ fs = rddFrames n) ∨ ((∀ n, i ≠ .rdd n) ∧ okWords i = 0)) := by
  have hc := planOf_pass_cases h
  cases i with
  | rdd n => exact ⟨rfl, .inl ⟨n, rfl, by simpa using hc⟩⟩
  | w2b ws => simp at hc
  | b2w bs => simp at hc
  | _ => exact ⟨rfl, .inr ⟨by simp, rfl⟩⟩

theorem okLengths_of_noFrames {p : Params} {i : Instr} (h : planOf p i = .pass (.frames [])) :
    okWords i = 0 ∧ okBytes i = 0 := by
  obtain ⟨hb, ⟨n, rfl, hn⟩ | ⟨-, hw⟩⟩ := okLengths_of_frames h
  · exact ⟨by simpa [rddFrames, okWords, eq_comm] using hn, hb⟩
  · exact ⟨hw, hb⟩

theorem readsWords_eq_false {fs : List (List Word)} {r : Request} {i : Instr} (hd : decode r = .instr i)
    (hi : ∀ n, i ≠ .rdd n) : readsWords fs r = false := by
  cases i with
  | rdd n => exact absurd rfl (hi n)
  | _ => simp [readsWords, hd]

/-- After the last frame, number `k`, the outcome has the lengths its request asks for: the one read frame of RDD n has
n + 2 words, and two are dropped (41_transport.md R122, R124). -/
theorem frameOutcome_lengths {p : Params} {r : Request} {i : Instr} {fs : List (List Word)} {rxq : List Word} {k : Nat}
    (hd : decode r = .instr i) (h : planOf p i = .pass (.frames fs)) (hk : fs.length = k + 1)
    (hl : rxq.length = (fs.getD k []).length) :
    (frameOutcome (readsWords fs r) rxq).words.length = okWords i ∧
      (frameOutcome (readsWords fs r) rxq).bytes.length = okBytes i := by
  obtain ⟨hb, ⟨n, rfl, rfl⟩ | ⟨hi, hw⟩⟩ := okLengths_of_frames h
  · have hn : n ≠ 0 := by rintro rfl; simp [rddFrames] at hk
    obtain rfl : k = 0 := by simpa [rddFrames, hn] using hk.symm
    have hlen : rxq.length = n + 2 := by simpa [rddFrames, hn, readFrame] using hl
    simp [frameOutcome, readsWords, hd, rddFrames, hn, rddDropped, okWords, okBytes, hlen]
  · simp [frameOutcome, readsWords_eq_false hd hi, hb, hw]

/-! A move keeps each part of the invariant. -/

theorem Move.pinsOk {r : Recipe} {s t : State} (hm : Move r s t) (h : s.PinsOk) : t.PinsOk := by
  obtain ⟨hc, hs⟩ := h
  cases hm <;> simp_all [State.PinsOk, Phase.selected, Phase.inWord]

theorem Move.latchOk {r : Recipe} {s t : State} (hm : Move r s t) (hpins : s.PinsOk) (hp : s.phase ≠ .idle)
    (h : s.LatchOk) : t.LatchOk := by
  obtain ⟨hc, -⟩ := hpins
  cases hm <;> simp_all [State.LatchOk, Phase.selected, Phase.inWord]

theorem Move.planOk {r : Request} {s t : State} (hm : Move (recipeOfRequest s r) s t) (hpins : s.PinsOk)
    (hp : s.phase ≠ .idle) (hr : s.reqLatch = some r) (h : s.PlanOk) : t.PlanOk := by
  obtain ⟨hc, -⟩ := hpins
  rw [planOk_iff hr] at h
  cases hm with
  | accept hp' => exact absurd hp' hp
  | respond => simp [State.PlanOk, Phase.framed, Phase.selected, Phase.inWord]
  | _ =>
    refine (planOk_iff (r := r) (by simpa using hr)).2 ?_
    simp_all [Phase.framed, Phase.selected, Phase.inWord]

/-- The counters: ASSERT starts at word 0 of a frame that has one, a transferred word is counted in WIDX, SENT and RXQ,
and at the end of a frame its words are words before the next. -/
theorem Move.placeOk {r : Recipe} {s t : State} (hm : Move r s t) (h : s.Inv) : t.PlaceOk := by
  obtain ⟨-, ⟨hc, -⟩, -, hplan, ⟨hfidx, hval, hass, hword, hsent, hlast, hcut⟩, ⟨hblank, -⟩, -⟩ := h
  cases hm with
  | assert hp =>
    have := frame_length_pos hplan (by rw [hp]; rfl)
    simp_all [State.PlaceOk, State.frame, State.wordsBefore, Phase.framed, Phase.selected, Phase.inWord]
  | nextWord w hp hw hl =>
    simp_all [State.PlaceOk, State.frame, State.wordsBefore, Phase.framed, Phase.selected, Phase.inWord, Nat.add_assoc]
  | lastWord w hp hw hl =>
    have hlt := hword (by rw [hp]; rfl)
    have hend : s.widx + 1 = s.frame.length := by omega
    simp_all [State.PlaceOk, State.frame, State.wordsBefore, Phase.framed, Phase.selected, Phase.inWord,
      Response.blank, Nat.add_assoc]
  | nextFrame hp ho hl =>
    have := wordCount_take_succ (fs := s.frames) (k := s.fidx) (by omega)
    simp_all [State.PlaceOk, State.frame, State.wordsBefore, Phase.framed, Phase.selected, Phase.inWord]
  | _ => simp_all [State.PlaceOk, State.frame, State.wordsBefore, Phase.framed, Phase.selected, Phase.inWord]

/-- The outcome is written where an error is raised or the result is known, and there it has the lengths asked for. -/
theorem Move.outcomeOk {r : Request} {s t : State} (hm : Move (recipeOfRequest s r) s t) (h : s.Inv)
    (hr : s.reqLatch = some r) : t.OutcomeOk := by
  obtain ⟨-, ⟨hc, -⟩, -, hplan, ⟨hfidx, -, -, -, hsent, hlast, -⟩, ⟨hblank, hde, herr, hinfo, -⟩, -⟩ := h
  obtain ⟨hcodec, hframes⟩ := (planOk_iff hr).1 hplan
  cases hm with
  | refuse e info hp hraise =>
    obtain ⟨hne, hne'⟩ := planOfRequest_raise_ne_ok (r := r) (by simpa using hraise)
    simp_all [State.OutcomeOk, Phase.selected, Phase.inWord]
  | noFrames hp hpass =>
    obtain ⟨i, hd, hi⟩ := planOfRequest_pass (r := r) (by simpa using hpass)
    have := okLengths_of_noFrames hi
    simp_all [State.OutcomeOk, Response.blank, State.okLengths]
  | codec hp =>
    obtain ⟨i, hd, hi⟩ := planOfRequest_pass (hcodec hp)
    have := codec_lengths hd hi
    simp_all [State.OutcomeOk, State.okLengths]
  | lastFrame hp ho hl =>
    have hsel : s.phase.selected = true := by rw [hp]; rfl
    have hlt := hfidx (Phase.framed_of_selected hsel)
    obtain ⟨i, hd, hi⟩ := planOfRequest_pass (hframes (Phase.framed_of_selected hsel))
    obtain ⟨hrxq, -⟩ := hsent hsel
    have := frameOutcome_lengths hd hi (k := s.fidx) (by omega) (hrxq.trans (hlast hp ho))
    simp_all [State.OutcomeOk, State.okLengths, frameOutcome]
  | _ => simp_all [State.OutcomeOk, Phase.selected, Phase.inWord, Response.blank]

theorem Move.gateOk {r : Recipe} {s t : State} (hm : Move r s t) (hpins : s.PinsOk) (hwf : s.params.wf = true)
    (h : s.GateOk) : t.GateOk := by
  obtain ⟨hc, -⟩ := hpins
  cases hm <;> simp_all [State.GateOk, timedOut_zero, Phase.selected, Phase.inWord]

theorem Move.code_le {r : Recipe} {s t : State} (hm : Move r s t) (h : s.code.toNat ≤ 4) : t.code.toNat ≤ 4 := by
  cases hm with
  | respond hp => cases hs : s.outcome.status <;> simp [hs, Status.code]
  | _ => exact h

theorem Move.inv {r : Request} {s t : State} (hm : Move (recipeOfRequest s r) s t) (h : s.Inv) (hp : s.phase ≠ .idle)
    (hr : s.reqLatch = some r) : t.Inv := by
  obtain ⟨hwf, hpins, hlatch, hplan, -, -, hgate, hcode⟩ := id h
  exact ⟨by rwa [hm.params], hm.pinsOk hpins, hm.latchOk hpins hp hlatch, hm.planOk hpins hp hr hplan,
    hm.placeOk h, hm.outcomeOk h hr, hm.gateOk hpins hwf hgate, hm.code_le hcode⟩

/-! Acceptance, launch and reset. -/

theorem inv_latch {s : State} {r : Request} {rest : List Request} (h : s.Inv) (hp : s.phase = .idle)
    (hq : s.env.requests = r :: rest) : (latch r (withRequests rest s)).Inv := by
  obtain ⟨hwf, ⟨hcs, hsck⟩, ⟨-, -, hfit⟩, -, -, -, -, hcode⟩ := h
  rw [hp] at hcs
  rw [hq, List.all_cons, Bool.and_eq_true] at hfit
  refine ⟨hwf, ⟨hcs, hsck⟩, ⟨rfl, hfit⟩, ?_, ?_, ?_, ?_, hcode⟩
  · simp [State.PlanOk, Phase.framed, Phase.selected, Phase.inWord]
  · simp [State.PlaceOk, Phase.framed, Phase.selected, Phase.inWord]
  · simp [State.OutcomeOk, Response.blank]
  · simp [State.GateOk]

/-- A state with the reset values, at launch or after a reset. -/
theorem inv_of_idle {s : State} (hwf : s.params.wf = true)
    (hfit : s.env.requests.all (Request.fits s.params.hostValueWidth) = true) (hp : s.phase = .idle)
    (hcs : s.csN = true) (hsck : s.sck = Config.sckIdle) (hr : s.reqLatch = none) (ho : s.outcome = Response.blank)
    (hcode : s.code = 0#3) : s.Inv := by
  refine ⟨hwf, ?_, ?_, ?_, ?_, ?_, ?_, ?_⟩
  · simp [State.PinsOk, hp, hcs, hsck, Phase.selected, Phase.inWord]
  · simp [State.LatchOk, hr, hp, hfit]
  · simp [State.PlanOk, hp, Phase.framed, Phase.selected, Phase.inWord]
  · simp [State.PlaceOk, hp, Phase.framed, Phase.selected, Phase.inWord]
  · simp [State.OutcomeOk, hp, ho, Response.blank]
  · simp [State.GateOk, hp]
  · simp [hcode]

theorem inv_resetStep {s : State} (h : s.Inv) : (resetStep s).Inv := by
  obtain ⟨hwf, -, ⟨-, -, hfit⟩, -⟩ := h
  exact inv_of_idle hwf hfit rfl rfl rfl rfl rfl rfl

/-! A step keeps the invariant; MOSI and RESET_N, which it does not speak of, may be anything. -/

theorem RunMove.inv {s u : State} (hm : RunMove s u) (h : s.Inv) : u.Inv := by
  cases hm with
  | wait => exact h
  | take r rest hp hq => exact inv_latch h hp hq
  | latched r _ hp hr hm => exact hm.inv h hp hr

theorem StepMove.inv {s t : State} (hm : StepMove s t) (h : s.Inv) : t.Inv := by
  cases hm with
  | free u _ hm => exact hm.inv h
  | released rest u _ hm => exact hm.inv (s := withResetN rest s) h
  | reset rest => exact inv_resetStep (s := withResetN rest s) h

/-- Settles O46: a move exists (`exists_stepMove`) and keeps each part of the invariant (`StepMove.inv`). -/
theorem invariantIsKept : Obligations.InvariantIsKept := by
  unfold Obligations.InvariantIsKept
  intro s h
  obtain ⟨t, hm⟩ := exists_stepMove h
  exact ⟨t, step_of_stepMove hm, hm.inv h⟩

end Sys2Proof.Machine
end

section
/-! PROOF. TRACE as the wire image of the request in progress (30_encoding.md R72; 41_transport.md R109, R110): what a
bus monitor makes of one more event, and that every step keeps the image. With it the statements about whole runs. -/

namespace Sys2Proof.Machine

/-! One more event. -/

theorem busView_csl {t : List BusEvent} (hc : (busView t).current = none) :
    busView (t ++ [.csl]) = { busView t with current := some [], half := none, gated := false } := by
  simp [busView_append, BusView.event, hc]

theorem busView_csh {t : List BusEvent} {ws : List Word} (hc : (busView t).current = some ws) :
    busView (t ++ [.csh]) =
      { busView t with closed := (busView t).closed ++ [ws], current := none, half := none, gated := false } := by
  simp [busView_append, BusView.event, hc]

theorem busView_poll {t : List BusEvent} {ws : List Word} (hc : (busView t).current = some ws)
    (hh : (busView t).half = none) (h : Bool) : busView (t ++ [.poll h]) = { busView t with gated := h } := by
  simp [busView_append, BusView.event, hc, hh]

theorem busView_highByte {t : List BusEvent} {ws : List Word} (hc : (busView t).current = some ws)
    (hh : (busView t).half = none) (hg : (busView t).gated = true) (tx rx : Byte) :
    busView (t ++ [.xfer tx rx]) = { busView t with half := some tx, gated := false } := by
  simp [busView_append, BusView.event, hc, hh, hg]

theorem busView_lowByte {t : List BusEvent} {ws : List Word} {b : Byte} (hc : (busView t).current = some ws)
    (hh : (busView t).half = some b) (tx rx : Byte) :
    busView (t ++ [.xfer tx rx]) = { busView t with current := some (ws ++ [wordOfBytes b tx]), half := none } := by
  simp [busView_append, BusView.event, hc, hh]

/-- One more closed frame: the last `k + 1` of them are the first `k + 1` frames of the request. -/
theorem drop_append_getD {l fs : List (List Word)} {k : Nat} (hk : k < fs.length) (hkl : k ≤ l.length)
    (h : l.drop (l.length - k) = fs.take k) : (l ++ [fs.getD k []]).drop (l.length - k) = fs.take (k + 1) := by
  rw [List.drop_append_of_le_length (by omega), h, List.take_add_one]
  simp [hk]

/-! The image, phase by phase. -/

theorem State.WireInv.openFrame {s : State} (h : s.WireInv) (hp : s.phase.selected = true) :
    (busView s.trace).current = some (s.frame.take s.widx) := by
  obtain ⟨-, ⟨hcur, -, -⟩, -⟩ := h
  simpa [hp] using hcur

theorem State.WireInv.half {s : State} (h : s.WireInv) (hp : s.phase.selected = true) :
    (busView s.trace).half = if s.phase = .xferLo then s.word?.map hi else none := by
  obtain ⟨-, ⟨-, hhalf, -⟩, -⟩ := h
  exact hhalf hp

theorem State.WireInv.noOpenFrame {s : State} (h : s.WireInv) (hp : s.phase.selected = false) :
    (busView s.trace).current = none := by
  obtain ⟨-, ⟨hcur, -, -⟩, -⟩ := h
  simpa [hp] using hcur

/-- Outside the frames of a request the image says only that the trace is legal and no frame is open. -/
theorem wireInv_of_not_framed {s : State} (hp : s.phase.framed = false) (hl : (busView s.trace).legal = true)
    (hc : (busView s.trace).current = none) : s.WireInv := by
  have hs : s.phase.selected = false := Bool.eq_false_iff.2 fun h => by simp [Phase.framed_of_selected h] at hp
  have hx : s.phase ≠ .xferHi := fun h => by simp [h, Phase.selected, Phase.inWord] at hs
  simp [State.WireInv, State.OpenFrameOk, hp, hl, hc, hs, hx]

/-- Inside a frame: an event that closes no frame keeps the image if the monitor's open frame, pending byte and gate are
those of the new place. -/
theorem wireInv_of_selected {s t : State} {g : Bool} (hw : s.WireInv) (hs : s.phase.framed = true)
    (hfr : t.frames = s.frames) (hfi : t.fidx = s.fidx) (hp : t.phase.selected = true)
    (hg : t.phase = .xferHi → g = true)
    (hv : busView t.trace = { busView s.trace with
      current := some (t.frame.take t.widx)
      half := if t.phase = .xferLo then t.word?.map hi else none
      gated := g }) : t.WireInv := by
  obtain ⟨hl, -, hclosed⟩ := hw
  simp only [State.WireInv, State.OpenFrameOk, hv, hp, hl, hfr, hfi, if_true, true_and, implies_true]
  exact ⟨hg, fun _ => hclosed hs⟩

theorem frame_congr {s t : State} (hfr : t.frames = s.frames) (hfi : t.fidx = s.fidx) : t.frame = s.frame := by
  simp [State.frame, hfr, hfi]

/-- A sample of a gate: on to the high byte only if it read 1. -/
theorem wireInv_of_poll {s t : State} {h : Bool} (hw : s.WireInv) (hs : s.phase = .gate)
    (hp : t.phase.selected = true) (hx : t.phase ≠ .xferLo) (hh : t.phase = .xferHi → h = true)
    (hfr : t.frames = s.frames) (hfi : t.fidx = s.fidx) (hwi : t.widx = s.widx)
    (ht : t.trace = s.trace ++ [.poll h]) : t.WireInv := by
  have hsel : s.phase.selected = true := by rw [hs]; rfl
  have hhalf : (busView s.trace).half = none := by simpa [hs] using hw.half hsel
  refine wireInv_of_selected hw (Phase.framed_of_selected hsel) hfr hfi hp hh ?_
  rw [ht, busView_poll (hw.openFrame hsel) hhalf, frame_congr hfr hfi, hwi, if_neg hx, ← hw.openFrame hsel, ← hhalf]

/-- The high byte of a word, its gate passed. -/
theorem wireInv_of_highByte {s t : State} {w : Word} {b : Byte} (hw : s.WireInv) (hs : s.phase = .xferHi)
    (hword : s.word? = some w) (hp : t.phase = .xferLo) (hfr : t.frames = s.frames) (hfi : t.fidx = s.fidx)
    (hwi : t.widx = s.widx) (ht : t.trace = s.trace ++ [.xfer (hi w) b]) : t.WireInv := by
  have hsel : s.phase.selected = true := by rw [hs]; rfl
  have hhalf : (busView s.trace).half = none := by simpa [hs] using hw.half hsel
  have hgated : (busView s.trace).gated = true := by
    obtain ⟨-, ⟨-, -, hgated⟩, -⟩ := hw
    exact hgated hs
  have hword' : t.word? = some w := by rwa [State.word?, frame_congr hfr hfi, hwi]
  refine wireInv_of_selected (g := false) hw (Phase.framed_of_selected hsel) hfr hfi (by rw [hp]; rfl) (by simp [hp]) ?_
  rw [ht, busView_highByte (hw.openFrame hsel) hhalf hgated, frame_congr hfr hfi, hwi, if_pos hp, hword',
    ← hw.openFrame hsel]
  rfl

/-- The low byte of a word, which completes it: one more word of the open frame. -/
theorem wireInv_of_lowByte {s t : State} {w : Word} {b : Byte} (hw : s.WireInv) (hs : s.phase = .xferLo)
    (hword : s.word? = some w) (hp : t.phase = .gate ∨ t.phase = .deassert) (hfr : t.frames = s.frames)
    (hfi : t.fidx = s.fidx) (hwi : t.widx = s.widx + 1) (ht : t.trace = s.trace ++ [.xfer (lo w) b]) :
    t.WireInv := by
  have hsel : s.phase.selected = true := by rw [hs]; rfl
  have hhalf : (busView s.trace).half = some (hi w) := by simpa [hs, hword] using hw.half hsel
  have hx : t.phase ≠ .xferLo := by rcases hp with hp | hp <;> simp [hp]
  have htake : s.frame.take (s.widx + 1) = s.frame.take s.widx ++ [w] := by
    rw [List.take_add_one, show s.frame[s.widx]? = some w from hword]
    rfl
  refine wireInv_of_selected (g := (busView s.trace).gated) hw (Phase.framed_of_selected hsel) hfr hfi ?_ ?_ ?_
  · rcases hp with hp | hp <;> rw [hp] <;> rfl
  · rcases hp with hp | hp <;> simp [hp]
  · rw [ht, busView_lowByte (hw.openFrame hsel) hhalf, wordOfBytes_hi_lo, frame_congr hfr hfi, hwi, htake, if_neg hx]

/-! Every step keeps the image. -/

theorem Move.wireInv {r : Recipe} {s t : State} (hm : Move r s t) (h : s.Inv) (hw : s.WireInv) : t.WireInv := by
  obtain ⟨-, ⟨hcs, -⟩, -, -, ⟨hfidx, hval, -, -, -, hlast, -⟩, -⟩ := h
  obtain ⟨hl, -, hclosed⟩ := id hw
  cases hm with
  | toFrames f fs hp =>
    obtain ⟨hzero, -⟩ := hval hp
    have hnone := hw.noOpenFrame (by rw [hp]; rfl)
    simp [State.WireInv, State.OpenFrameOk, Phase.selected, Phase.inWord, hl, hnone, hzero]
  | assert hp =>
    have hnone := hw.noOpenFrame (by rw [hp]; rfl)
    refine wireInv_of_selected (g := false) hw (by rw [hp]; rfl) rfl rfl rfl (by simp) ?_
    simp [hcs, hp, Phase.selected, Phase.inWord, busView_csl hnone]
  | gatePass hp hd => exact wireInv_of_poll hw hp rfl (by simp) (fun _ => hd) rfl rfl rfl rfl
  | gateTimeout hp =>
    have hc : s.csN = false := by rw [hcs, hp]; rfl
    exact wireInv_of_poll hw hp (by simp [hc, Phase.selected]) (by simp [hc]) (by simp [hc]) rfl rfl rfl rfl
  | gateWait hp =>
    have hsel : s.phase.selected = true := by rw [hp]; rfl
    exact wireInv_of_poll hw hp hsel (by simp [hp]) (by simp [hp]) rfl rfl rfl rfl
  | xferHi w hp hword => exact wireInv_of_highByte hw hp hword rfl rfl rfl rfl rfl
  | nextWord w hp hword => exact wireInv_of_lowByte hw hp hword (.inl rfl) rfl rfl rfl rfl
  | lastWord w hp hword => exact wireInv_of_lowByte hw hp hword (.inr rfl) rfl rfl rfl rfl
  | endAborted hp | lastFrame hp =>
    have hc : s.csN = false := by rw [hcs, hp]; rfl
    have hv := busView_csh (hw.openFrame (by rw [hp]; rfl))
    exact wireInv_of_not_framed rfl (by simp [hc, hv, hl]) (by simp [hc, hv])
  | nextFrame hp ho hlt =>
    have hc : s.csN = false := by rw [hcs, hp]; rfl
    have hsel : s.phase.selected = true := by rw [hp]; rfl
    have hcur : (busView s.trace).current = some s.frame := by simpa [hlast hp ho] using hw.openFrame hsel
    obtain ⟨hk, hdrop⟩ := hclosed (Phase.framed_of_selected hsel)
    have hdrop' : ((busView s.trace).closed ++ [s.frame]).drop _ = _ := drop_append_getD (by omega) hk hdrop
    simp [State.WireInv, State.OpenFrameOk, Phase.selected, Phase.inWord, hc, busView_csh hcur, hl, hk, hdrop']
  | accept hp | refuse _ _ hp | toCodec hp | noFrames hp | codec hp | respond hp =>
    have hc : s.csN = true := by rw [hcs, hp]; rfl
    have hnone := hw.noOpenFrame (by rw [hp]; rfl)
    exact wireInv_of_not_framed (by simp [hc, Phase.framed, Phase.selected, Phase.inWord]) hl hnone

theorem RunMove.wireInv {s u : State} (hm : RunMove s u) (h : s.Inv) (hw : s.WireInv) : u.WireInv := by
  cases hm with
  | wait => exact hw
  | take r rest hp hq =>
    obtain ⟨hl, -, -⟩ := id hw
    exact wireInv_of_not_framed rfl hl (hw.noOpenFrame (by rw [hp]; rfl))
  | latched r _ _ _ hm => exact hm.wireInv h hw

/-- A reset in a frame closes it, with the words it had (70_reset_and_hazards.md R164; log 21). -/
theorem wireInv_resetStep {s : State} (h : s.Inv) (hw : s.WireInv) : (resetStep s).WireInv := by
  obtain ⟨-, ⟨hcs, -⟩, -⟩ := h
  obtain ⟨hl, -, -⟩ := id hw
  cases hsel : s.phase.selected with
  | true =>
    have hc : s.csN = false := by rw [hcs, hsel]; rfl
    have hv := busView_csh (hw.openFrame hsel)
    exact wireInv_of_not_framed rfl (by simp [hc, hv, hl]) (by simp [hc, hv])
  | false =>
    have hc : s.csN = true := by rw [hcs, hsel]; rfl
    exact wireInv_of_not_framed rfl (by simp [hc, hl]) (by simp [hc, hw.noOpenFrame hsel])

theorem StepMove.wireInv {s t : State} (hm : StepMove s t) (h : s.Inv) (hw : s.WireInv) : t.WireInv := by
  cases hm with
  | free u _ hm => exact hm.wireInv h hw
  | released rest u _ hm => exact hm.wireInv (s := withResetN rest s) h hw
  | reset rest => exact wireInv_resetStep (s := withResetN rest s) h hw

/-- Settles O47: every move appends the one event that leads from the image of its phase to that of the next. -/
theorem traceIsTheWireImage : Obligations.TraceIsTheWireImage := by
  unfold Obligations.TraceIsTheWireImage
  intro s t h hw hs
  exact (step_move hs).wireInv h hw

/-! Whole runs. -/

/-- What every step answers and keeps, every run keeps, and no run stops. -/
theorem steps_of_kept {P : State → Prop} (hP : ∀ s, P s → ∃ t, step s = .next t ∧ P t) (k : Nat) {s : State}
    (h : P s) : ∃ t, steps k s = .next t ∧ P t := by
  induction k generalizing s with
  | zero => exact ⟨s, rfl, h⟩
  | succ k ih =>
    obtain ⟨u, hu, hPu⟩ := hP s h
    obtain ⟨t, ht, hPt⟩ := ih hPu
    exact ⟨t, by rw [steps_succ hu, ht], hPt⟩

/-- Settles O45: IDLE with the reset values, and nothing on the bus. -/
theorem launchMeetsInvariant : Obligations.LaunchMeetsInvariant := by
  unfold Obligations.LaunchMeetsInvariant
  intro p env hwf hfit
  exact ⟨inv_of_idle hwf hfit rfl rfl rfl rfl rfl rfl, wireInv_of_not_framed rfl rfl rfl⟩

/-- In a state that meets the invariant and the image, a frame is open exactly if CS_N is 0. -/
theorem openFrame_isSome_iff {s : State} (h : s.Inv) (hw : s.WireInv) :
    (busView s.trace).current.isSome = true ↔ s.csN = false := by
  obtain ⟨-, ⟨hcs, -⟩, -⟩ := h
  rw [hcs]
  cases hsel : s.phase.selected with
  | true => simp [hw.openFrame hsel]
  | false => simp [hw.noOpenFrame hsel]

/-- Settles O48: the launch state meets the invariant and the image (`launchMeetsInvariant`), every step keeps both
(`invariantIsKept`, `traceIsTheWireImage`), so every run does; CS_N and the open frame are read off them. -/
theorem everyRunGoesOn : Obligations.EveryRunGoesOn := by
  unfold Obligations.EveryRunGoesOn
  intro p env k hwf hfit
  have kept : ∀ s : State, s.Inv ∧ s.WireInv → ∃ t, step s = .next t ∧ t.Inv ∧ t.WireInv := fun s ⟨h, hw⟩ => by
    obtain ⟨t, ht, hinv⟩ := invariantIsKept s h
    exact ⟨t, ht, hinv, traceIsTheWireImage s t h hw ht⟩
  obtain ⟨s, hs, hinv, hw⟩ := steps_of_kept kept k (launchMeetsInvariant p env hwf hfit)
  refine ⟨s, hs, fun hp => ?_, ?_, openFrame_isSome_iff hinv hw⟩
  · obtain ⟨-, ⟨hcs, -⟩, -⟩ := hinv
    rw [hcs, hp]
    rfl
  · obtain ⟨hl, -, -⟩ := hw
    exact hl

end Sys2Proof.Machine
end

section
/-! PROOF. The levels of one byte transfer (20_memory.md R51; log 17): the clock cycles of two bit streams stand in the
order of the bits, and the bits of a byte stand in falling order. -/

namespace Sys2Proof.Machine

/-- Bit `k` of two streams stands in the `k`-th clock cycle, for both of its half cycles. -/
theorem bitCycles_getElem? {xs ys : List Bool} {x y : Bool} {k : Nat} (hx : xs[k]? = some x) (hy : ys[k]? = some y) :
    (List.zipWith bitCycle xs ys).flatten[2 * k]? = some ⟨Config.sckIdle, x, y⟩ ∧
      (List.zipWith bitCycle xs ys).flatten[2 * k + 1]? = some ⟨!Config.sckIdle, x, y⟩ := by
  induction k generalizing xs ys with
  | zero =>
    match xs, ys with
    | _ :: xs, _ :: ys =>
      cases hx
      cases hy
      exact ⟨rfl, rfl⟩
  | succ k ih =>
    match xs, ys with
    | _ :: xs, _ :: ys => simpa [bitCycle, Nat.mul_succ] using ih (xs := xs) (ys := ys) hx hy

theorem bitsMsbFirst_eq_map (b : Byte) : bitsMsbFirst b = (List.range 8).map fun k => b.getLsbD (7 - k) := rfl

theorem bitsMsbFirst_getElem? (b : Byte) {k : Nat} (hk : k < 8) : (bitsMsbFirst b)[k]? = some (b.getLsbD (7 - k)) := by
  simp [bitsMsbFirst_eq_map, hk]

/-- Settles O10: the number of half cycles and the levels of SCK do not depend on the two bytes; the bits of cycle `k`
are those at place `k` of the two bit streams. -/
theorem byteGoesMsbFirst : Obligations.ByteGoesMsbFirst := by
  unfold Obligations.ByteGoesMsbFirst
  intro tx rx
  refine ⟨rfl, rfl, fun k hk => ?_⟩
  obtain ⟨hdriven, hsampled⟩ := bitCycles_getElem? (bitsMsbFirst_getElem? tx hk) (bitsMsbFirst_getElem? rx hk)
  simp [byteWave, hdriven, hsampled]

end Sys2Proof.Machine
end

section
/-! PROOF. Decoding (30_encoding.md R67 to R71): the header alone says which request a record selects. With it the record
of a request, the table words, the pseudo-requests (R85 to R87) and the request lines (R83, R84). -/

namespace Sys2Proof.Machine

/-! The header. -/

/-- The two fields of a header make up its value (R68). -/
theorem hdr_toNat (h : Word) : h.toNat = 8 * (hdrRsv h).toNat + (hdrOp h).toNat := by
  have := h.isLt
  simp only [hdrRsv, hdrOp, BitVec.extractLsb'_toNat, Nat.shiftRight_eq_div_pow]
  omega

/-- Settles O1: each of the six headers has RSV = 0 and its own OP. -/
theorem headerSelectsOperands : Obligations.HeaderSelectsOperands := by
  unfold Obligations.HeaderSelectsOperands
  intro r
  refine ⟨?_, ?_, ?_, ?_, ?_, ?_⟩ <;> (intro h; simp [decode, hdrRsv, hdrOp, h])

/-- Settles O2: the record of a request holds its header and, in the fields that header reads, its operands. -/
theorem decodeInvertsEncode : Obligations.DecodeInvertsEncode := by
  unfold Obligations.DecodeInvertsEncode
  intro i
  obtain ⟨hcmd, hwrd, hrdd, hcmda, hw2b, hb2w⟩ := headerSelectsOperands (encode i)
  cases i with
  | cmd opc => exact hcmd rfl
  | wrd words => exact hwrd rfl
  | rdd count => exact hrdd rfl
  | cmda opc words => exact hcmda rfl
  | w2b words => exact hw2b rfl
  | b2w bytes => exact hb2w rfl

/-- A record selects a request exactly if its header is at most 0x0005 (R69, R71). -/
theorem exists_decode_eq_instr_iff (r : Request) : (∃ i, decode r = .instr i) ↔ r.hdr.toNat ≤ 0x0005 := by
  have hval := hdr_toNat r.hdr
  unfold decode
  split
  · have : (hdrRsv r.hdr).toNat ≠ 0 := by simpa [← BitVec.toNat_inj] using ‹hdrRsv r.hdr ≠ 0#13›
    simp only [reduceCtorEq, exists_false, false_iff]
    omega
  · have hrsv : hdrRsv r.hdr = 0#13 := by simpa using ‹¬ hdrRsv r.hdr ≠ 0#13›
    obtain hop : r.hdr.toNat = (hdrOp r.hdr).toNat := by simpa [hrsv] using hval
    rw [hop]
    split
    case h_7 h0 h1 h2 h3 h4 h5 =>
      simp only [imp_false] at h0 h1 h2 h3 h4 h5
      simp only [reduceCtorEq, exists_false, false_iff]
      omega
    all_goals simp [*]

/-- Settles O3: closed facts about ten words. -/
theorem tableWordsDecode : Obligations.TableWordsDecode := by
  unfold Obligations.TableWordsDecode
  decide

/-- Settles O6: the opcodes are those of REG_WR and REG_RD (R89). -/
theorem pseudoRequestsExpand : Obligations.PseudoRequestsExpand := by
  unfold Obligations.PseudoRequestsExpand
  exact fun reg value => ⟨rfl, rfl⟩

/-- Settles O7: seven closed lines, each read by the assembler. -/
theorem requestLinesAssemble : Obligations.RequestLinesAssemble := by
  unfold Obligations.RequestLinesAssemble
  exact ⟨by decide, by decide, by decide, by decide, by decide, by decide, by decide⟩

end Sys2Proof.Machine
end

section
/-! PROOF. What a latched record can do to a step (30_encoding.md R67, R71): a header that selects nothing is refused
without bus activity, and of a record that selects a request only the fields the request uses are read. -/

namespace Sys2Proof.Machine

/-! A refused request. -/

/-- A request refused at validation on an idle bus is answered by the next step. -/
theorem refused_run {s : State} {r : Request} {e : Status} {info : Nat} (h : s.Accepted r)
    (hplan : planOfRequest s.params r = .raise e info) :
    ∃ u, steps 2 s = .next u ∧ u.AnsweredQuietly s { status := e, words := [], bytes := [], info := info } := by
  obtain ⟨hp, hr, -, -, hc, hn⟩ := h
  obtain ⟨hne, -⟩ := planOfRequest_raise_ne_ok hplan
  have hvalidate := step_of_move hn (by simp [hp]) hr (.refuse e info hp (by simpa using hplan))
  have hrespond : step (floatMosi (abort e info s)) = _ :=
    step_of_move (r := r) (by simpa using hn) (by simp [hc]) (by simpa using hr) (.respond (by simp [hc]))
  refine ⟨_, by rw [steps_succ hvalidate, steps_one hrespond], 0#8, Config.freeMosi (s.env.draws + 1),
    s.env.draws + 2, ?_⟩
  simp [State.answered, respond, abort, floatMosi, hne]

theorem planOfRequest_illegal {p : Params} {r : Request} (h : ∀ i, decode r ≠ .instr i) :
    planOfRequest p r = .raise .illegalRequest r.hdr.toNat := by
  unfold planOfRequest
  cases hd : decode r with
  | instr i => exact absurd hd (h i)
  | reservedBits w => rw [decode_reservedBits hd]
  | reservedOp w => rw [decode_reservedOp hd]

/-- Settles O4: RSV and OP together say that the header is above 0x0005 (`exists_decode_eq_instr_iff`); the plan of such
a record is the refusal, which `refused_run` follows to its answer. -/
theorem illegalHeaderIsRefused : Obligations.IllegalHeaderIsRefused := by
  unfold Obligations.IllegalHeaderIsRefused
  intro r
  have hiff : (∀ i, decode r ≠ .instr i) ↔ 0x0005 < r.hdr.toNat := by
    rw [← not_exists, exists_decode_eq_instr_iff, not_le]
  exact ⟨hiff, fun s hs h => refused_run hs (planOfRequest_illegal (hiff.2 h))⟩

/-! Unused fields. -/

/-- No move reads REQ_LATCH: with another latch content it does the same to every other register. -/
theorem Move.relatch {r : Recipe} {s t : State} (hm : Move r s t) (l : Option Request) :
    ∃ l', Move r { s with reqLatch := l } { t with reqLatch := l' } := by
  cases hm with
  | accept hp hf => exact ⟨_, .accept hp hf⟩
  | refuse e info hp h => exact ⟨_, .refuse e info hp h⟩
  | toCodec hp h => exact ⟨_, .toCodec hp h⟩
  | noFrames hp h => exact ⟨_, .noFrames hp h⟩
  | toFrames f fs hp h => exact ⟨_, .toFrames f fs hp h⟩
  | codec hp => exact ⟨_, .codec hp⟩
  | assert hp => exact ⟨_, .assert hp⟩
  | gatePass hp h => exact ⟨_, .gatePass hp h⟩
  | gateTimeout hp h ht => exact ⟨_, .gateTimeout hp h ht⟩
  | gateWait hp h ht => exact ⟨_, .gateWait hp h ht⟩
  | xferHi w hp hw => exact ⟨_, .xferHi w hp hw⟩
  | nextWord w hp hw hl => exact ⟨_, .nextWord w hp hw hl⟩
  | lastWord w hp hw hl => exact ⟨_, .lastWord w hp hw hl⟩
  | endAborted hp ho => exact ⟨_, .endAborted hp ho⟩
  | nextFrame hp ho hl => exact ⟨_, .nextFrame hp ho hl⟩
  | lastFrame hp ho hl => exact ⟨_, .lastFrame hp ho hl⟩
  | respond hp => exact ⟨_, .respond hp⟩

/-- The recipe of a record is that of the request it selects, whatever else the record and the latch hold. -/
theorem recipeOfRequest_congr {s : State} {r r' : Request} {i : Instr} (h : decode r = .instr i)
    (h' : decode r' = .instr i) (l : Option Request) :
    recipeOfRequest { s with reqLatch := l } r' = recipeOfRequest s r := by
  simp only [recipeOfRequest, h, h']
  cases i <;> rfl

/-- Outside IDLE, a record that selects the same request takes the same move. -/
theorem RunMove.relatch {s u : State} {r r' : Request} {i : Instr} (hm : RunMove s u) (hp : s.phase ≠ .idle)
    (hr : s.reqLatch = some r) (h : decode r = .instr i) (h' : decode r' = .instr i) :
    ∃ l, RunMove { s with reqLatch := some r' } { u with reqLatch := l } := by
  cases hm with
  | wait hi => exact absurd hi hp
  | take _ _ hi => exact absurd hi hp
  | latched r₀ _ _ hr₀ hm =>
    obtain rfl : r₀ = r := Option.some.inj (hr₀.symm.trans hr)
    obtain ⟨l, hm'⟩ := hm.relatch (some r')
    exact ⟨l, .latched r' _ hp rfl (by rwa [recipeOfRequest_congr h h'])⟩

/-- Settles O5: the moves of a request do not read the latch (`Move.relatch`), and a reset empties it. -/
theorem unusedFieldsHaveNoEffect : Obligations.UnusedFieldsHaveNoEffect := by
  unfold Obligations.UnusedFieldsHaveNoEffect
  intro s t r r' i hp hr h h' hstep
  cases step_move hstep with
  | free u hn hm =>
    obtain ⟨l, hm'⟩ := hm.relatch hp hr h h'
    exact ⟨_, step_of_stepMove (.free _ hn hm'), rfl⟩
  | released rest u hn hm =>
    obtain ⟨l, hm'⟩ := hm.relatch hp hr h h'
    exact ⟨_, step_of_stepMove (.released rest _ hn hm'), rfl⟩
  | reset rest hn => exact ⟨_, step_of_stepMove (.reset rest hn), rfl⟩

end Sys2Proof.Machine
end

section
/-! PROOF. Frames on the bus (30_encoding.md R72 to R77, R81): what kind of frame a bus monitor takes each frame of a
request for, and that it reads completed frames back. -/

namespace Sys2Proof.Machine

/-! The kind of a frame, by its preamble. -/

theorem frameKind_commandFrame (c : Word) : frameKind (commandFrame c) = some (.command c []) := rfl

theorem frameKind_writeFrame {ws : List Word} (h : ws ≠ []) : frameKind (writeFrame ws) = some (.writeData ws) := by
  match ws, h with
  | _ :: _, _ => rfl

theorem frameKind_commandFrame_append_writeFrame (c : Word) {ws : List Word} (h : ws ≠ []) :
    frameKind (commandFrame c ++ writeFrame ws) = some (.command c ws) := by
  match ws, h with
  | _ :: _, _ => rfl

theorem frameKind_readFrame {n : Nat} (h : n ≠ 0) : frameKind (readFrame n) = some (.readData n) := by
  simp [frameKind, readFrame, cmdPreamble, wrdPreamble, rddPreamble, h]

/-- Only a frame with one of the three preambles is of a kind (R77). -/
theorem head?_of_frameKind {f : List Word} {k : FrameKind} (h : frameKind f = some k) :
    f.head? = some 0x6000#16 ∨ f.head? = some 0x0000#16 ∨ f.head? = some 0x1000#16 := by
  match f with
  | [] => cases h
  | p :: rest =>
    by_contra hp
    simp only [List.head?_cons, Option.some.injEq, not_or] at hp
    simp [frameKind, cmdPreamble, wrdPreamble, rddPreamble, hp] at h

theorem wordsOfHost_eq_map (vs : List Nat) : wordsOfHost vs = vs.map (BitVec.ofNat 16) := rfl

/-- The kinds of the frames of CMDA (R125, R131). -/
theorem map_frameKind_cmdaFrames (framing : CmdaFraming) (c : Word) (a : List Word) :
    (cmdaFrames framing c a).map frameKind =
      if a = [] then [some (.command c [])]
      else if framing = .twoFrames then [some (.command c []), some (.writeData a)]
      else [some (.command c a)] := by
  unfold cmdaFrames
  split
  · rfl
  · cases framing <;>
      simp [frameKind_commandFrame, frameKind_writeFrame, frameKind_commandFrame_append_writeFrame, *]

theorem map_frameKind_wrdFrames (ws : List Word) :
    (wrdFrames ws).map frameKind = if ws = [] then [] else [some (.writeData ws)] := by
  unfold wrdFrames
  split <;> simp [frameKind_writeFrame, *]

theorem map_frameKind_rddFrames (n : Nat) :
    (rddFrames n).map frameKind = if n = 0 then [] else [some (.readData n)] := by
  unfold rddFrames
  split <;> simp [frameKind_readFrame, *]

/-- Frames that each have a kind each start with a preamble. -/
theorem head?_and_kinds {fs : List (List Word)} {ks : List (Option FrameKind)} (h : fs.map frameKind = ks)
    (hks : none ∉ ks) :
    (∀ f ∈ fs, f.head? = some 0x6000#16 ∨ f.head? = some 0x0000#16 ∨ f.head? = some 0x1000#16) ∧
      fs.map frameKind = ks := by
  refine ⟨fun f hf => ?_, h⟩
  have hsome : frameKind f ≠ none := ne_of_mem_of_not_mem (h ▸ List.mem_map_of_mem hf) hks
  obtain ⟨k, hk⟩ := Option.ne_none_iff_exists'.1 hsome
  exact head?_of_frameKind hk

/-- Settles O15: the kinds are those of the frames BuildFrames gives the request, and a frame of a kind starts with a
preamble (`head?_of_frameKind`). -/
theorem framesAreReadByPreamble : Obligations.FramesAreReadByPreamble := by
  unfold Obligations.FramesAreReadByPreamble
  intro p i fs h
  rcases planOf_pass_cases h with ⟨c, rfl, -, hfs⟩ | ⟨ws, rfl, -, hfs⟩ | ⟨n, rfl, hfs⟩ | ⟨c, a, rfl, -, -, hfs⟩ |
    ⟨ws, rfl, -, hfs⟩ | ⟨bs, rfl, -, hfs⟩ <;> cases hfs
  · exact head?_and_kinds rfl (by simp)
  · refine head?_and_kinds (by simp [map_frameKind_wrdFrames, wordsOfHost_eq_map]) ?_
    dsimp only
    split <;> simp
  · refine head?_and_kinds (map_frameKind_rddFrames n) ?_
    dsimp only
    split <;> simp
  · refine head?_and_kinds (by simp [map_frameKind_cmdaFrames, wordsOfHost_eq_map, wordOfHost]) ?_
    dsimp only
    split_ifs <;> simp

/-! Completed frames. -/

/-- A completed frame on an idle bus is one more closed frame, and the bus is idle again. -/
theorem busView_frame {t : List BusEvent} {f : List Word} {ds : List WordDraw} (hl : f.length = ds.length)
    (hc : (busView t).current = none) :
    busView (t ++ frameEvents f ds) =
      { busView t with closed := (busView t).closed ++ [f], current := none, half := none, gated := false } := by
  rw [busView_append, foldl_event_frame f ds _ hl hc]

/-- Settles O16: by induction on the frames, one `busView_frame` each. -/
theorem monitorReadsFrames : Obligations.MonitorReadsFrames := by
  unfold Obligations.MonitorReadsFrames
  intro fs
  induction fs with
  | nil =>
    intro ds t _ hl hc
    simp [framesEvents, hl, hc]
  | cons f fs ih =>
    intro ds t hd hl hc
    rw [wordCount_cons] at hd
    have hf := busView_frame (t := t) (f := f) (ds := ds.take f.length) (by simp; omega) hc
    have hrest := ih (ds.drop f.length) (t ++ frameEvents f (ds.take f.length)) (by simp; omega) (by simp [hf, hl])
      (by simp [hf])
    simpa [framesEvents, hf] using hrest

end Sys2Proof.Machine
end

section
/-! PROOF. The codec functions (40_wire_codec.md R96 to R98, R101, R102): the two conversions are inverse to each other,
and word i of a stream is its bytes 2i and 2i + 1. -/

namespace Sys2Proof.Machine

/-- BytesToWords of an even list does not fail (R98). -/
theorem bytesToWords_of_even {bs : List Byte} (h : bs.length % 2 = 0) : bytesToWords bs = .pass (pairBytes bs) := by
  simp [bytesToWords, h]

/-- Host values in range are the values of their words (R97). -/
theorem map_toNat_wordsOfHost {vs : List Nat} (h : ∀ v ∈ vs, v ≤ 0xFFFF) : (wordsOfHost vs).map BitVec.toNat = vs := by
  have value : ∀ v ∈ vs, (wordOfHost v).toNat = v := fun v hv => by
    have := h v hv
    exact Nat.mod_eq_of_lt (by omega)
  rw [wordsOfHost, List.map_map]
  exact (List.map_congr_left value).trans (List.map_id' vs)

/-- Settles O11: the conversions are inverse to each other (`pairBytes_wordsToBytes`, `wordsToBytes_pairBytes`) and
lose no value in range; a list that holds a wider one has a first such. -/
theorem codecRoundTrips : Obligations.CodecRoundTrips := by
  unfold Obligations.CodecRoundTrips
  refine ⟨fun vs h => ?_, fun bs h => ?_, fun vs v hv hwide => ?_⟩
  · refine ⟨_, _, rangeCheck_pass h, bytesToWords_of_even (by simp), ?_⟩
    rw [pairBytes_wordsToBytes, map_toNat_wordsOfHost h]
  · exact ⟨_, bytesToWords_of_even h, wordsToBytes_pairBytes bs h⟩
  · obtain ⟨k, hk⟩ := exists_firstWide hv hwide
    exact ⟨k, hk, rangeCheck_raise hk⟩

/-- Settles O12: the places in an even byte list are those in the bytes of its words, which are the list itself. -/
theorem codecLengthsAndPlaces : Obligations.CodecLengthsAndPlaces := by
  unfold Obligations.CodecLengthsAndPlaces
  refine ⟨length_wordsToBytes, fun bs h => ?_, wordsToBytes_getElem?⟩
  have places := wordsToBytes_getElem? (pairBytes bs)
  rw [wordsToBytes_pairBytes bs h] at places
  exact ⟨_, bytesToWords_of_even h, length_pairBytes bs, places⟩

end Sys2Proof.Machine
end

section
/-! PROOF. The codec requests W2B and B2W, whole (40_wire_codec.md R95, R99, R100, R104): validation, CODEC and the
response, or validation and the refusal. -/

namespace Sys2Proof.Machine

/-- The first step of an accepted request is its `exec`, there is one, and the run goes on from where it leads. -/
theorem State.Accepted.exists_exec {s : State} {r : Request} {i : Instr} (h : s.Accepted r)
    (hd : decode r = .instr i) : ∃ t, exec i s = .next t ∧ ∀ k, steps k t = steps (k + 1) s := by
  obtain ⟨hp, hr, -, -, -, hn⟩ := h
  have hbusy : s.phase ≠ .idle := by simp [hp]
  obtain ⟨u, hm⟩ := exists_move (recipeOf s i) hbusy (by simp [hp, Phase.inWord])
  obtain ⟨hstep, -⟩ := stepRunsLatchedRequest s r i hbusy hr hd
  exact ⟨_, exec_of_move hm, fun k => (steps_succ ((hstep hn).trans (exec_of_move hm)) k).symm⟩

/-- A codec request that passes validation is answered OK with what CODEC computes, by the third step. -/
theorem codec_run {s : State} {r : Request} {i : Instr} (h : s.Accepted r) (hd : decode r = .instr i)
    (hplan : planOf s.params i = .pass .codec) :
    ∃ u, steps 3 s = .next u ∧ u.AnsweredQuietly s
      { status := .ok, words := (recipeOf s i).codecWords, bytes := (recipeOf s i).codecBytes, info := 0 } := by
  obtain ⟨hp, hr, -, -, -, hn⟩ := h
  have recipe (t : State) : recipeOfRequest t r = recipeOf t i := by simp [recipeOfRequest, hd]
  have hvalidate := step_of_move hn (by simp [hp]) hr (.toCodec hp (by simp [recipe, hplan]))
  have hcodec := step_of_move (s := floatMosi { s with phase := .codec }) hn (by simp) hr (.codec rfl)
  rw [recipe] at hcodec
  have hrespond := step_of_move
    (s := floatMosi (coded (recipeOf s i).codecWords (recipeOf s i).codecBytes (floatMosi { s with phase := .codec })))
    hn (by simp) hr (.respond rfl)
  refine ⟨_, by rw [steps_succ hvalidate, steps_succ hcodec]; exact steps_one hrespond, 0#8,
    Config.freeMosi (s.env.draws + 2), s.env.draws + 3, rfl⟩

/-- Settles O19: the length check, then the range check; past both CODEC computes the bytes (`codec_run`), and a failure
of either is answered as every refusal is (`refused_run`). -/
theorem w2bRuns : Obligations.W2bRuns := by
  unfold Obligations.W2bRuns
  intro s r ws h hd
  obtain ⟨t, ht, hsteps⟩ := h.exists_exec hd
  have plan : planOfRequest s.params r = planOf s.params (.w2b ws) := by simp [planOfRequest, hd]
  refine ⟨t, ht, fun hl hr => ?_, fun hl => ?_, fun hl k hk => ?_⟩ <;> rw [hsteps]
  · exact codec_run h hd (planOf_w2b hl hr)
  · exact refused_run h (plan.trans (planOf_tooLong hl))
  · exact refused_run h (plan.trans (planOf_firstWide hl hk))

/-- Settles O20: the length check, then the format check; past both CODEC computes the words (`codec_run`), whose bytes
are the operand, and a failure of either is answered as every refusal is (`refused_run`). -/
theorem b2wRuns : Obligations.B2wRuns := by
  unfold Obligations.B2wRuns
  intro s r bs h hd
  obtain ⟨t, ht, hsteps⟩ := h.exists_exec hd
  have plan : planOfRequest s.params r = planOf s.params (.b2w bs) := by simp [planOfRequest, hd]
  refine ⟨t, ht, fun hl he => ?_, fun hl => ?_, fun hl ho => ?_⟩ <;> rw [hsteps]
  · obtain ⟨u, hu, hanswer⟩ := codec_run h hd (planOf_b2w hl he)
    exact ⟨pairBytes bs, u, length_pairBytes bs, wordsToBytes_pairBytes bs he, hu, hanswer⟩
  · exact refused_run h (plan.trans (planOf_tooLong hl))
  · exact refused_run h (plan.trans (planOf_b2w_odd hl ho))

end Sys2Proof.Machine
end

section
/-! PROOF. What a request that reads nothing makes of the received bytes (41_transport.md R129): they change nothing but
RXQ, RXHI and themselves. Two states with one erasure are one state up to what was received, and every move can be taken
with anything received. -/

namespace Sys2Proof.Machine

/-- What a state holds of DEV's bytes: those received, in RXQ, RXHI and TRACE, and those to come. -/
structure Received where
  rxq : List Word
  rxhi : Byte
  trace : List BusEvent
  miso : List Byte

/-- The state with `v` received in place of what it holds. -/
def State.withReceived (s : State) (v : Received) : State :=
  { s with rxq := v.rxq, rxhi := v.rxhi, trace := v.trace, env := { s.env with miso := v.miso } }

/-- `v` differs from what `s` holds in the values received only: as many words and bytes, the same events. -/
structure Received.Like (v : Received) (s : State) : Prop where
  rxq : v.rxq.length = s.rxq.length
  trace : v.trace.map BusEvent.eraseRx = s.trace.map BusEvent.eraseRx
  miso : v.miso.length = s.env.miso.length

/-- Two states with one erasure: the second is the first with other values received. -/
theorem exists_withReceived {s t : State} (h : s.eraseRx = t.eraseRx) :
    ∃ v : Received, v.Like s ∧ t = s.withReceived v := by
  refine ⟨⟨t.rxq, t.rxhi, t.trace, t.env.miso⟩, ⟨?_, congrArg State.trace h.symm, ?_⟩, ?_⟩
  · simpa [State.eraseRx, eraseWords] using congrArg (fun u : State => u.rxq.length) h.symm
  · simpa [State.eraseRx] using congrArg (fun u : State => u.env.miso.length) h.symm
  · obtain ⟨⟩ := s
    obtain ⟨⟩ := t
    simp_all [State.eraseRx, State.withReceived]

theorem eraseRx_withReceived {s : State} {v : Received} (h : v.Like s) : (s.withReceived v).eraseRx = s.eraseRx := by
  simp [State.eraseRx, State.withReceived, eraseWords, h.rxq, h.trace, h.miso]

theorem Received.Like.trace_append {s : State} {v : Received} (h : v.Like s) {e e' : List BusEvent}
    (he : e'.map BusEvent.eraseRx = e.map BusEvent.eraseRx) :
    (v.trace ++ e').map BusEvent.eraseRx = (s.trace ++ e).map BusEvent.eraseRx := by
  rw [List.map_append, List.map_append, h.trace, he]

/-! The primitives: what each appends or takes is like what it appends or takes in the other state. -/

theorem drawHrdy_miso_update (e : Env) (ms : List Byte) :
    drawHrdy { e with miso := ms } = ((drawHrdy e).1, { (drawHrdy e).2 with miso := ms }) := by
  cases h : e.hrdy <;> simp [drawHrdy, h]

/-- As many coming bytes leave as many, and the same count of free values. -/
theorem drawMiso_miso_update {e : Env} {ms : List Byte} (h : ms.length = e.miso.length) :
    (drawMiso { e with miso := ms }).2 = { (drawMiso e).2 with miso := ms.tail } := by
  cases hms : ms <;> cases he : e.miso <;> simp [drawMiso, hms, he] at h ⊢

theorem setCS_withReceived {s : State} {v : Received} (h : v.Like s) (level : Bool) :
    ∃ v' : Received, v'.Like (setCS level s) ∧ setCS level (s.withReceived v) = (setCS level s).withReceived v' :=
  ⟨{ v with trace := v.trace ++ csEvents s.csN level }, ⟨h.rxq, h.trace_append rfl, h.miso⟩, rfl⟩

theorem sampleHrdy_withReceived {s : State} {v : Received} (h : v.Like s) :
    ∃ v' : Received, v'.Like (sampleHrdy s).2 ∧ (sampleHrdy (s.withReceived v)).2 = (sampleHrdy s).2.withReceived v' := by
  refine ⟨{ v with trace := v.trace ++ [.poll (drawHrdy s.env).1] }, ⟨h.rxq, h.trace_append rfl, ?_⟩, ?_⟩
  · simpa using h.miso
  · simp [sampleHrdy, State.withReceived, drawHrdy_miso_update]

theorem spiXfer8_withReceived {s : State} {v : Received} (h : v.Like s) (tx : Byte) :
    ∃ v' : Received, v'.Like (spiXfer8 tx s).2 ∧
      (spiXfer8 tx (s.withReceived v)).2 = (spiXfer8 tx s).2.withReceived v' := by
  refine ⟨{ v with trace := v.trace ++ [.xfer tx (drawMiso (s.withReceived v).env).1], miso := v.miso.tail },
    ⟨h.rxq, h.trace_append rfl, ?_⟩, ?_⟩
  · simp [h.miso]
  · simp [spiXfer8, State.withReceived, drawMiso_miso_update h.miso]

theorem storeWord_withReceived {s : State} {v : Received} (h : v.Like s) (b b' : Byte) :
    ∃ v' : Received, v'.Like (storeWord b s) ∧ storeWord b' (s.withReceived v) = (storeWord b s).withReceived v' :=
  ⟨{ v with rxq := v.rxq ++ [wordOfBytes v.rxhi b'] }, ⟨by simp [h.rxq], h.trace, h.miso⟩, rfl⟩

/-! Every move, with anything received. -/

theorem Move.withReceived {r : Recipe} {s t : State} {v : Received} (hm : Move r s t) (hr : r.reads = false)
    (h : v.Like s) : ∃ v' : Received, v'.Like t ∧ Move r (s.withReceived v) (t.withReceived v') := by
  have hHrdy : (drawHrdy (s.withReceived v).env).1 = (drawHrdy s.env).1 := by
    simp [State.withReceived, drawHrdy_miso_update]
  obtain ⟨vs, hs, es⟩ := sampleHrdy_withReceived h
  obtain ⟨vc, hc, ec⟩ := setCS_withReceived h true
  cases hm with
  | accept hp hf => exact ⟨v, ⟨h.rxq, h.trace, h.miso⟩, .accept hp hf⟩
  | refuse e info hp hc => exact ⟨v, ⟨h.rxq, h.trace, h.miso⟩, .refuse e info hp hc⟩
  | toCodec hp hc => exact ⟨v, ⟨h.rxq, h.trace, h.miso⟩, .toCodec hp hc⟩
  | noFrames hp hc => exact ⟨v, ⟨h.rxq, h.trace, h.miso⟩, .noFrames hp hc⟩
  | toFrames f fs hp hc => exact ⟨v, ⟨h.rxq, h.trace, h.miso⟩, .toFrames f fs hp hc⟩
  | codec hp => exact ⟨v, ⟨h.rxq, h.trace, h.miso⟩, .codec hp⟩
  | assert hp =>
    exact ⟨⟨[], v.rxhi, v.trace ++ csEvents s.csN false, v.miso⟩, ⟨rfl, h.trace_append rfl, h.miso⟩, .assert hp⟩
  | gatePass hp hh =>
    have hmove := Move.gatePass (r := r) (s := s.withReceived v) hp (hHrdy.trans hh)
    rw [es] at hmove
    exact ⟨vs, ⟨hs.rxq, hs.trace, hs.miso⟩, hmove⟩
  | gateTimeout hp hh ht =>
    have hmove := Move.gateTimeout (r := r) (s := s.withReceived v) hp (hHrdy.trans hh) ht
    rw [es] at hmove
    exact ⟨vs, ⟨hs.rxq, hs.trace, hs.miso⟩, hmove⟩
  | gateWait hp hh ht =>
    have hmove := Move.gateWait (r := r) (s := s.withReceived v) hp (hHrdy.trans hh) ht
    rw [es] at hmove
    exact ⟨vs, ⟨hs.rxq, hs.trace, hs.miso⟩, hmove⟩
  | xferHi w hp hw =>
    obtain ⟨vx, hx, ex⟩ := spiXfer8_withReceived h (hi w)
    have hmove := Move.xferHi (r := r) (s := s.withReceived v) w hp hw
    rw [ex] at hmove
    exact ⟨{ vx with rxhi := (drawMiso (s.withReceived v).env).1 }, ⟨hx.rxq, hx.trace, hx.miso⟩, hmove⟩
  | nextWord w hp hw hl =>
    obtain ⟨vx, hx, ex⟩ := spiXfer8_withReceived h (lo w)
    have hmove := Move.nextWord (r := r) (s := s.withReceived v) w hp hw hl
    obtain ⟨vw, hv, ew⟩ := storeWord_withReceived hx (drawMiso s.env).1 (drawMiso (s.withReceived v).env).1
    rw [ex, ew] at hmove
    exact ⟨vw, ⟨hv.rxq, hv.trace, hv.miso⟩, hmove⟩
  | lastWord w hp hw hl =>
    obtain ⟨vx, hx, ex⟩ := spiXfer8_withReceived h (lo w)
    obtain ⟨vw, hv, ew⟩ := storeWord_withReceived hx (drawMiso s.env).1 (drawMiso (s.withReceived v).env).1
    have hmove := Move.lastWord (r := r) (s := s.withReceived v) w hp hw hl
    rw [ex, ew] at hmove
    exact ⟨vw, ⟨hv.rxq, hv.trace, hv.miso⟩, hmove⟩
  | endAborted hp ho =>
    have hmove := Move.endAborted (r := r) (s := s.withReceived v) hp ho
    rw [ec] at hmove
    exact ⟨vc, ⟨hc.rxq, hc.trace, hc.miso⟩, hmove⟩
  | nextFrame hp ho hl =>
    have hmove := Move.nextFrame (r := r) (s := s.withReceived v) hp ho hl
    rw [ec] at hmove
    exact ⟨vc, ⟨hc.rxq, hc.trace, hc.miso⟩, hmove⟩
  | lastFrame hp ho hl =>
    have hmove := Move.lastFrame (r := r) (s := s.withReceived v) hp ho hl
    rw [ec, hr] at hmove
    rw [hr]
    exact ⟨vc, ⟨hc.rxq, hc.trace, hc.miso⟩, hmove⟩
  | respond hp => exact ⟨⟨[], 0#8, v.trace, v.miso⟩, ⟨rfl, h.trace, h.miso⟩, .respond hp⟩

/-- The recipe of a latched record does not depend on what was received. -/
theorem recipeOfRequest_withReceived (s : State) (v : Received) (r : Request) :
    recipeOfRequest (s.withReceived v) r = recipeOfRequest s r := by
  unfold recipeOfRequest
  cases decode r with
  | instr i => cases i <;> rfl
  | _ => rfl

/-- Only RDD reads; a record with an illegal header does not either. -/
theorem readsWords_of_not_rdd {fs : List (List Word)} {r : Request} (h : ∀ n, decode r ≠ .instr (.rdd n)) :
    readsWords fs r = false := by
  unfold readsWords
  split
  · exact absurd ‹_› (h _)
  · rfl

/-- No read request is latched. -/
def State.NoReadLatched (s : State) : Prop := ∀ r n, s.reqLatch = some r → decode r ≠ .instr (.rdd n)

theorem RunMove.withReceived {s t : State} {v : Received} (hm : RunMove s t) (hr : s.NoReadLatched) (h : v.Like s) :
    ∃ v' : Received, v'.Like t ∧ RunMove (s.withReceived v) (t.withReceived v') := by
  cases hm with
  | wait hp hq => exact ⟨v, h, .wait hp hq⟩
  | take r rest hp hq hf => exact ⟨v, ⟨h.rxq, h.trace, h.miso⟩, .take r rest hp hq hf⟩
  | latched r _ hp hl hm =>
    have hreads : (recipeOfRequest s r).reads = false := by simp [readsWords_of_not_rdd fun n => hr r n hl]
    obtain ⟨v', h', hm'⟩ := hm.withReceived hreads h
    exact ⟨v', h', .latched r _ hp hl (by rwa [recipeOfRequest_withReceived])⟩

theorem StepMove.withReceived {s t : State} {v : Received} (hm : StepMove s t) (hr : s.NoReadLatched) (h : v.Like s) :
    ∃ v' : Received, v'.Like t ∧ StepMove (s.withReceived v) (t.withReceived v') := by
  cases hm with
  | free u hn hm =>
    obtain ⟨v', h', hm'⟩ := hm.withReceived hr h
    exact ⟨v', ⟨h'.rxq, h'.trace, h'.miso⟩, .free (u.withReceived v') hn hm'⟩
  | released rest u hn hm =>
    obtain ⟨v', h', hm'⟩ := hm.withReceived (v := v) hr ⟨h.rxq, h.trace, h.miso⟩
    exact ⟨v', ⟨h'.rxq, h'.trace, h'.miso⟩, .released (s := s.withReceived v) rest (u.withReceived v') hn hm'⟩
  | reset rest hn =>
    exact ⟨⟨[], Config.freeRxhi s.env.draws, v.trace ++ csEvents s.csN true, v.miso⟩,
      ⟨rfl, h.trace_append rfl, h.miso⟩, .reset (s := s.withReceived v) rest hn⟩

/-- Settles O51: the second state is the first with other values received (`exists_withReceived`); the step it takes is
the same move with those values (`StepMove.withReceived`), and the erasure hides them. -/
theorem receivedBytesAreDiscarded : Obligations.ReceivedBytesAreDiscarded := by
  unfold Obligations.ReceivedBytesAreDiscarded
  intro s t s' he hr hs
  obtain ⟨v, h, rfl⟩ := exists_withReceived he
  obtain ⟨v', h', hm⟩ := (step_move hs).withReceived hr h
  exact ⟨_, step_of_stepMove hm, (eraseRx_withReceived h').symm⟩

end Sys2Proof.Machine
end

section
/-! PROOF. Single steps in the frames of a request (41_transport.md R106 to R110), and what a gate without a timeout does
(R107): each is a move whose guard the hypotheses give. -/

namespace Sys2Proof.Machine

theorem timedOut_iff {p : Params} {n : Nat} : timedOut p n = true ↔ ∃ T ∈ p.readyTimeoutPolls, T ≤ n := by
  cases h : p.readyTimeoutPolls <;> simp [timedOut, h]

/-- Settles O32: the sample decides between three moves, and a failed one by the timeout. -/
theorem gateSamplesReady : Obligations.GateSamplesReady := by
  unfold Obligations.GateSamplesReady
  intro i s h more hp hc hh
  have hd := drawHrdy_cons hh
  cases h with
  | true => exact ⟨_, exec_of_move (.gatePass hp (by rw [hd])), by simp [hd, hc]⟩
  | false =>
    cases ht : timedOut s.params (s.polls + 1) with
    | true =>
      obtain ⟨T, hT, hle⟩ := timedOut_iff.1 ht
      rw [Option.mem_def] at hT
      exact ⟨_, exec_of_move (.gateTimeout hp (by rw [hd]) ht), by simp [hd, hc, hT, Nat.not_lt.2 hle]⟩
    | false =>
      have hgoing : ∀ T ∈ s.params.readyTimeoutPolls, ¬ T ≤ s.polls + 1 := fun T hT hle => by
        simp [timedOut_iff.2 ⟨T, hT, hle⟩] at ht
      refine ⟨_, exec_of_move (.gateWait hp (by rw [hd]) ht), ?_⟩
      simp +contextual [hd, hc, hp, hgoing]

/-- Settles O33: the high byte's move leads to that of the low byte, which ends the word by its place in the frame. -/
theorem wordGoesHighByteFirst : Obligations.WordGoesHighByteFirst := by
  unfold Obligations.WordGoesHighByteFirst
  intro i j s w b0 b1 more hp hw hm
  have hd := drawMiso_cons hm
  have hhigh := exec_of_move (i := i) (.xferHi w hp hw)
  set t := floatMosi { (spiXfer8 (hi w) s).2 with rxhi := (drawMiso s.env).1, phase := .xferLo } with ht
  rcases Nat.lt_or_ge (s.widx + 1) s.frame.length with hl | hl
  · refine ⟨t, _, hhigh, exec_of_move (.nextWord w rfl hw hl), ?_⟩
    simp [ht, hd, hl, wordOfBytes]
  · refine ⟨t, _, hhigh, exec_of_move (.lastWord w rfl hw hl), ?_⟩
    simp [ht, hd, hl, wordOfBytes]

/-- Settles O34: one move asserts chip-select; three deassert it, told apart by the outcome and the frames left. -/
theorem chipSelectFramesTheWords : Obligations.ChipSelectFramesTheWords := by
  unfold Obligations.ChipSelectFramesTheWords
  intro i s
  refine ⟨fun hp hc => ⟨_, exec_of_move (.assert hp), by simp [hc]⟩, fun hp hc => ?_⟩
  by_cases ho : s.outcome.status = .ok
  · rcases Nat.lt_or_ge (s.fidx + 1) s.frames.length with hl | hl
    · exact ⟨_, exec_of_move (.nextFrame hp ho hl), by simp [hc, ho, hl]⟩
    · exact ⟨_, exec_of_move (.lastFrame hp ho hl), by simp [hc, ho, hl, frameOutcome]⟩
  · exact ⟨_, exec_of_move (.endAborted hp ho), by simp [hc, ho]⟩

/-- Settles O53: the step of DONE is `respond` for every request. -/
theorem respondClearsWhatWasReceived : Obligations.RespondClearsWhatWasReceived := by
  unfold Obligations.RespondClearsWhatWasReceived
  intro i s hp
  exact ⟨_, exec_of_move (.respond hp), rfl, rfl⟩

/-- Settles O49: `gate_fails` for k samples; without a timeout none of them is the last. -/
theorem gateWithoutTimeoutHangs : Obligations.GateWithoutTimeoutHangs := by
  unfold Obligations.GateWithoutTimeoutHangs
  intro k s h hp hT hn ⟨more, hh⟩
  obtain ⟨-, ⟨hc, -⟩, ⟨hlatch, -⟩, -⟩ := h
  obtain ⟨r, hr⟩ : ∃ r, s.reqLatch = some r := Option.isSome_iff_exists.1 (by simp [hlatch, hp])
  obtain ⟨m, n, hrun⟩ := gate_fails k hn hp hr hh.symm fun _ => by simp [timedOut, hT]
  exact ⟨_, hrun, hp, by simp [hc, hp, Phase.selected, Phase.inWord], by simp [State.busy, hp], rfl, rfl, rfl⟩

/-! CMD and CMDA without arguments (41_transport.md R115, R127). -/

/-- Outside IDLE a step does not read the record its request is presented as. -/
theorem runPhase_request_update (r : Recipe) (q : Request) {s : State} (hp : s.phase ≠ .idle) :
    runPhase { r with request := q } s = runPhase r s := by
  unfold runPhase phaseStep primitive
  cases hph : s.phase with
  | idle => exact absurd hph hp
  | _ => rfl

/-- Without arguments the data frame is left out, and what RangeCheck is given is OPC alone. -/
theorem planOf_cmda_nil (p : Params) (c : Nat) : planOf p (.cmda c []) = planOf p (.cmd c) := by
  have hlen : ¬ TooLong p (.cmda c []) := by simp [limitedLength]
  by_cases hc : c ≤ 0xFFFF
  · rw [planOf_cmda hlen hc (by simp), planOf_cmd hc]
    rfl
  · have hwide : FirstWide [c] 0 := ⟨⟨c, rfl, by omega⟩, by simp⟩
    rw [planOf_firstWide hlen hwide, planOf_firstWide (by simp [limitedLength]) hwide]

/-- Settles O27: the two recipes differ in the record only, which is read in IDLE only. -/
theorem cmdIsCmdaWithoutArguments : Obligations.CmdIsCmdaWithoutArguments := by
  unfold Obligations.CmdIsCmdaWithoutArguments
  intro c s hp
  have hplan : cmdaPlan c [] = cmdPlan c := funext fun p => planOf_cmda_nil p c
  have hrecipe : recipeOf s (.cmda c []) = { recipeOf s (.cmd c) with request := encode (.cmda c []) } := by
    simp [recipeOf, hplan]
  rw [exec_eq_runPhase, exec_eq_runPhase, hrecipe]
  exact (runPhase_request_update _ _ hp).symm

end Sys2Proof.Machine
end

section
/-! PROOF. What is in a frame: the frames of requests that transfer something (41_transport.md R116, R120, R125, R131), the
read frame of a count (R119), and the bytes and events of a completed frame (R111). -/

namespace Sys2Proof.Machine

theorem wrdFrames_of_ne {ws : List Word} (h : ws ≠ []) : wrdFrames ws = [writeFrame ws] := if_neg h

theorem rddFrames_of_ne {n : Nat} (h : n ≠ 0) : rddFrames n = [readFrame n] := if_neg h

theorem cmdaFrames_twoFrames (c : Word) {a : List Word} (ha : a ≠ []) :
    cmdaFrames .twoFrames c a = [commandFrame c, writeFrame a] := if_neg ha

theorem cmdaFrames_oneFrame (c : Word) {a : List Word} (ha : a ≠ []) :
    cmdaFrames .oneFrame c a = [commandFrame c ++ writeFrame a] := if_neg ha

@[simp] theorem length_readFrame (n : Nat) : (readFrame n).length = n + 2 := by simp [readFrame]

/-- Settles O13: the frame is so by definition, and every word is two bytes. -/
theorem readFrameContents : Obligations.ReadFrameContents := by
  unfold Obligations.ReadFrameContents
  intro n _
  refine ⟨rfl, length_readFrame n, ?_⟩
  rw [length_wordsToBytes, length_readFrame]
  ring

theorem mosiBytes_append (t u : List BusEvent) : mosiBytes (t ++ u) = mosiBytes t ++ mosiBytes u :=
  List.filterMap_append

theorem wordsEvents_cons (w : Word) (ws : List Word) (d : WordDraw) (ds : List WordDraw) :
    wordsEvents (w :: ws) (d :: ds) = wordEvents w d ++ wordsEvents ws ds := by simp [wordsEvents]

theorem mosiBytes_wordEvents (w : Word) (d : WordDraw) : mosiBytes (wordEvents w d) = [hi w, lo w] := by
  simp [wordEvents, mosiBytes]

/-- Whatever the answers, the words go out high byte first (41_transport.md R108). -/
theorem mosiBytes_wordsEvents {ws : List Word} {ds : List WordDraw} (h : ds.length = ws.length) :
    mosiBytes (wordsEvents ws ds) = wordsToBytes ws := by
  induction ws generalizing ds with
  | nil => rfl
  | cons w ws ih =>
    match ds, h with
    | d :: ds, h =>
      rw [wordsEvents_cons, mosiBytes_append, mosiBytes_wordEvents, ih (by simpa using h)]
      rfl

theorem mosiBytes_frameEvents {ws : List Word} {ds : List WordDraw} (h : ds.length = ws.length) :
    mosiBytes (frameEvents ws ds) = wordsToBytes ws := by
  have hframe : mosiBytes (frameEvents ws ds) = mosiBytes (wordsEvents ws ds ++ [.csh]) := rfl
  rw [hframe, mosiBytes_append, mosiBytes_wordsEvents h]
  exact List.append_nil _

/-- An event of which a word has `n` is in `ws.length` gated words that many times. -/
theorem count_wordsEvents {e : BusEvent} {n : Nat} (he : ∀ w d, (wordEvents w d).count e = n) {ws : List Word}
    {ds : List WordDraw} (h : ds.length = ws.length) : (wordsEvents ws ds).count e = ws.length * n := by
  induction ws generalizing ds with
  | nil => simp [wordsEvents]
  | cons w ws ih =>
    match ds, h with
    | d :: ds, h => rw [wordsEvents_cons, List.count_append, he, ih (by simpa using h), List.length_cons]; ring

/-- Settles O14: two bytes and one POLL(1) for each word, no CSL or CSH in any (`count_wordsEvents`). -/
theorem frameEventCounts : Obligations.FrameEventCounts := by
  unfold Obligations.FrameEventCounts
  intro ws ds h
  have hcsl := count_wordsEvents (e := .csl) (n := 0) (fun w d => by simp [wordEvents, List.count_replicate]) h
  have hcsh := count_wordsEvents (e := .csh) (n := 0) (fun w d => by simp [wordEvents, List.count_replicate]) h
  have hpass := count_wordsEvents (e := .poll true) (n := 1) (fun w d => by simp [wordEvents, List.count_replicate]) h
  have hpolls : (frameEvents ws ds).count (.poll true) = ws.length := by simp [frameEvents, hpass]
  refine ⟨mosiBytes_frameEvents h, by simp [mosiBytes_frameEvents h], by simp [frameEvents, hcsl],
    by simp [frameEvents, hcsh], hpolls, ?_⟩
  rw [hpolls]
  exact Nat.le_add_right _ _

end Sys2Proof.Machine
end

section
/-! PROOF. The transport requests, whole (41_transport.md R112): a request that passes validation runs its frames and is
answered OK. With it each of the four requests: R114, R117, R118, R121, R122, R124, R126, R131. -/

namespace Sys2Proof.Machine

theorem planOfRequest_of_decode {p : Params} {r : Request} {i : Instr} (hd : decode r = .instr i) :
    planOfRequest p r = planOf p i := by
  simp [planOfRequest, hd]

/-- A run that has come to DONE responds in its next step (10_state.md R44). -/
theorem steps_respond {k : Nat} {s u : State} {r : Request} (hrun : steps k s = .next u) (hn : u.env.resetN = [])
    (hp : u.phase = .done) (hr : u.reqLatch = some r) : steps (k + 1) s = .next (floatMosi (respond u)) :=
  (steps_add hrun).trans (steps_one (step_of_move hn (by simp [hp]) hr (.respond hp)))

/-- A request without frames is answered OK by the step after validation (R105). -/
theorem noFrames_run {s : State} {r : Request} (h : s.Accepted r)
    (hplan : planOfRequest s.params r = .pass (.frames [])) :
    ∃ u, steps 2 s = .next u ∧ u.AnsweredQuietly s Response.blank := by
  obtain ⟨hp, hr, -, -, -, hn⟩ := h
  have hvalidate := step_of_move hn (by simp [hp]) hr (.noFrames hp (by simpa using hplan))
  exact ⟨_, steps_respond (steps_one hvalidate) hn rfl hr, 0#8, Config.freeMosi (s.env.draws + 1), s.env.draws + 2, rfl⟩

/-- The outcome of the last frame is what the request returns: only RDD reads, and it has one frame (R112, R120). -/
theorem frameOutcome_eq {p : Params} {r : Request} {i : Instr} {fs : List (List Word)} {ds : List WordDraw}
    {rx : List Word} (hd : decode r = .instr i) (hplan : planOf p i = .pass (.frames fs)) (hne : fs ≠ [])
    (hrx : fs.length = 1 → rx = receivedOf ds) :
    frameOutcome (readsWords fs r) rx = { status := .ok, words := returnedWords ds i, bytes := [], info := 0 } := by
  obtain ⟨-, ⟨n, rfl, rfl⟩ | ⟨hi, -⟩⟩ := okLengths_of_frames hplan
  · have hn : n ≠ 0 := by rintro rfl; exact hne rfl
    have hlen : (rddFrames n).length = 1 := by simp [rddFrames_of_ne hn]
    simp [frameOutcome, readsWords, hd, hlen, hrx hlen, returnedWords]
  · have hwords : returnedWords ds i = [] := by
      cases i with
      | rdd n => exact absurd rfl (hi n)
      | _ => rfl
    simp [frameOutcome, readsWords_eq_false hd hi, hwords]

/-- A request with frames: validation, the frames whole and in order (`frames_run`), the response. -/
theorem transport_run {s : State} {r : Request} {i : Instr} {fs : List (List Word)} {ds : List WordDraw}
    (h : s.Accepted r) (hd : decode r = .instr i) (hplan : planOf s.params i = .pass (.frames fs)) (hne : fs ≠ [])
    (hl : ds.length = wordCount fs) (hg : gatesPass s.params ds) (hdev : s.DevAnswers ds []) :
    ∃ u, steps (wordSteps ds + 2 * fs.length + 2) s = .next u ∧
      u.AnsweredAs s { status := .ok, words := returnedWords ds i, bytes := [], info := 0 } (framesEvents fs ds) ∧
      u.env.hrdy = s.env.hrdy.drop (hrdyOf ds).length ∧ u.env.miso = s.env.miso.drop (misoOf ds).length := by
  obtain ⟨hp, hr, hfidx, -, hc, hn⟩ := h
  obtain ⟨⟨hs, hh⟩, ⟨ms, hm⟩⟩ := hdev
  rw [List.append_nil] at hh
  obtain ⟨f, fs', rfl⟩ := List.exists_cons_of_ne_nil hne
  have hvalidate := step_of_move hn (by simp [hp]) hr
    (.toFrames f fs' hp (by simpa [planOfRequest_of_decode hd] using hplan))
  set s1 := floatMosi { s with frames := f :: fs', outcome := Response.blank, phase := .assert } with hs1
  obtain ⟨m, n, p, b, w, rx, hrx, hframes⟩ := frames_run (r := r) (f :: fs') (s := s1) (hs := hs) (ms := ms) hne
    (by simp [hs1, hfidx]) (frames_ne_nil hplan) hn rfl hr hc rfl hl hh.symm hm.symm hg
  refine ⟨_, (steps_succ hvalidate _).trans (steps_respond hframes hn rfl hr), ?_, by simp [← hh], by simp [← hm]⟩
  simp [State.AnsweredAs, hs1, hc, hn, frameOutcome_eq hd hplan hne hrx]

/-- Settles O28: a request with frames runs them and responds (`transport_run`), one without responds at once
(`noFrames_run`). -/
theorem transportRequestsRunWhole : Obligations.TransportRequestsRunWhole := by
  unfold Obligations.TransportRequestsRunWhole
  intro s r i fs ds h hd hplan hl hg hdev
  obtain ⟨t, ht, hsteps⟩ := h.exists_exec hd
  by_cases hne : fs = []
  · subst hne
    obtain rfl : ds = [] := List.length_eq_zero_iff.1 hl
    obtain ⟨u, hu, b, m, n, rfl⟩ := noFrames_run h ((planOfRequest_of_decode hd).trans hplan)
    obtain ⟨-, -, -, -, hc, hn⟩ := h
    have hwords : returnedWords [] i = [] := by cases i <;> rfl
    refine ⟨t, _, ht, (hsteps 1).trans hu, ?_, rfl, rfl⟩
    simp [State.AnsweredAs, State.answered, Response.blank, framesEvents, hc, hn, hwords]
  · obtain ⟨u, hu, hanswer⟩ := transport_run h hd hplan hne hl hg hdev
    exact ⟨t, u, ht, (hsteps _).trans hu, hanswer⟩

/-- Settles O23: both requests pass validation without frames, and such a request is answered by the next step
(`noFrames_run`). -/
theorem emptyTransfersAreNoOps : Obligations.EmptyTransfersAreNoOps := by
  unfold Obligations.EmptyTransfersAreNoOps
  intro s r h i hi hd
  have hplan : planOf s.params i = .pass (.frames []) := by
    rcases hi with rfl | rfl
    · exact planOf_wrd (by simp [limitedLength]) (by simp)
    · exact planOf_rdd (by simp [limitedLength])
  obtain ⟨t, ht, hsteps⟩ := h.exists_exec hd
  obtain ⟨u, hu, b, m, n, rfl⟩ := noFrames_run h ((planOfRequest_of_decode hd).trans hplan)
  exact ⟨t, _, ht, (hsteps 1).trans hu, rfl, b, m, n, rfl⟩

/-- A request of one frame (R112). -/
theorem oneFrame_run {s : State} {r : Request} {i : Instr} {f : List Word} {ds : List WordDraw} (h : s.Accepted r)
    (hd : decode r = .instr i) (hplan : planOf s.params i = .pass (.frames [f])) (hl : ds.length = f.length)
    (hg : gatesPass s.params ds) (hdev : s.DevAnswers ds []) :
    ∃ t u, exec i s = .next t ∧ steps (wordSteps ds + 3) t = .next u ∧
      u.AnsweredAs s { status := .ok, words := returnedWords ds i, bytes := [], info := 0 } (frameEvents f ds) := by
  obtain ⟨t, u, ht, hu, hanswer, -⟩ := transportRequestsRunWhole s r i [f] ds h hd hplan (by simpa using hl) hg hdev
  have hevents : framesEvents [f] ds = frameEvents f ds := by simp [framesEvents, ← hl]
  exact ⟨t, u, ht, hu, hevents ▸ hanswer⟩

/-- Settles O21: the one frame is the command frame (R73), and its bytes are those of its two words. -/
theorem cmdRuns : Obligations.CmdRuns := by
  unfold Obligations.CmdRuns
  intro s r c d0 d1 h hd hc hg hdev
  obtain ⟨t, u, ht, hu, hanswer⟩ := oneFrame_run h hd (planOf_cmd hc) rfl hg hdev
  exact ⟨t, u, ht, hu, hanswer, mosiBytes_frameEvents rfl⟩

/-- Settles O22: the one frame is the write frame (R74), and its bytes are those of its words. -/
theorem wrdRuns : Obligations.WrdRuns := by
  unfold Obligations.WrdRuns
  intro s r ws ds h hd hne hr hlen hl hg hdev
  have hplan := planOf_wrd hlen hr
  have hw : wordsOfHost ws ≠ [] := by simpa [wordsOfHost] using hne
  rw [wrdFrames_of_ne hw] at hplan
  have hl' : ds.length = (writeFrame (wordsOfHost ws)).length := by simpa [writeFrame, wordsOfHost] using hl
  obtain ⟨t, u, ht, hu, hanswer⟩ := oneFrame_run h hd hplan hl' hg hdev
  exact ⟨t, u, ht, hu, hanswer, mosiBytes_frameEvents hl'⟩

/-- Settles O24: the one frame is the read frame (R119); what is returned drops the echo word and the dummy word, and
leaves the n words of `ds`. -/
theorem rddRuns : Obligations.RddRuns := by
  unfold Obligations.RddRuns
  intro s r n echo dummy ds h hd hn hlen hl hg hdev
  have hplan := planOf_rdd hlen
  rw [rddFrames_of_ne (by omega)] at hplan
  obtain ⟨t, u, ht, hu, hanswer⟩ := oneFrame_run h hd hplan (by simp [readFrame, hl]) hg hdev
  obtain ⟨-, -, -, -, hwords, -⟩ := id hanswer
  refine ⟨t, u, ht, hu, hanswer, ?_⟩
  simp [hwords, returnedWords, receivedOf, rddDropped, hl]

theorem framesEvents_two {f g : List Word} {cs ds : List WordDraw} (hc : cs.length = f.length)
    (hd : ds.length = g.length) : framesEvents [f, g] (cs ++ ds) = frameEvents f cs ++ frameEvents g ds := by
  simp [framesEvents, ← hc, ← hd]

/-- Settles O26: CMDA_FRAMING says whether there are two frames, each with its own words' answers, or one. -/
theorem cmdaRuns : Obligations.CmdaRuns := by
  unfold Obligations.CmdaRuns
  intro s r c a cs ds h hd hne hc hr hlen hlc hld hg hdev
  have ha : wordsOfHost a ≠ [] := by simpa [wordsOfHost] using hne
  have hld' : ds.length = (writeFrame (wordsOfHost a)).length := by simpa [writeFrame, wordsOfHost] using hld
  have hplan := planOf_cmda hlen hc hr
  cases hf : s.params.cmdaFraming with
  | twoFrames =>
    rw [hf, cmdaFrames_twoFrames _ ha] at hplan
    obtain ⟨t, u, ht, hu, hanswer, -⟩ := transportRequestsRunWhole s r _ _ (cs ++ ds) h hd hplan
      (by simp [hlc, hld', commandFrame]) hg hdev
    rw [framesEvents_two hlc hld'] at hanswer
    exact ⟨t, u, ht, fun _ => ⟨hu, hanswer⟩, by simp⟩
  | oneFrame =>
    rw [hf, cmdaFrames_oneFrame _ ha] at hplan
    obtain ⟨t, u, ht, hu, hanswer⟩ := oneFrame_run h hd hplan
      (by rw [List.length_append, hlc, hld', List.length_append]; rfl) hg hdev
    exact ⟨t, u, ht, by simp, fun _ => ⟨hu, hanswer⟩⟩

/-- Settles O25: in DONE the invariant says that an OK outcome has n words, and `respond` copies them; in a frame it says
that FRAMES is what BuildFrames gave, which for a place to be in it is the one read frame. -/
theorem rddReturnsExactlyN : Obligations.RddReturnsExactlyN := by
  unfold Obligations.RddReturnsExactlyN
  intro s r n h hr hd hn
  obtain ⟨-, -, -, hplan, ⟨hfidx, -⟩, ⟨-, -, -, -, hok⟩, -⟩ := h
  refine ⟨fun hp ho => ?_, fun hf => ?_⟩
  · have hlen : s.outcome.words.length = n ∧ s.outcome.bytes = [] := by
      simpa [State.okLengths, hr, hd, okWords, okBytes] using hok hp ho
    refine ⟨_, step_of_move hn (by simp [hp]) hr (.respond hp), ?_⟩
    simp [ho, hlen, Status.code]
  · obtain ⟨-, hframes⟩ := (planOk_iff hr).1 hplan
    have hpass := planOf_pass_cases ((planOfRequest_of_decode hd).symm.trans (hframes hf))
    have hfr : s.frames = rddFrames n := by simpa using hpass
    have hlt := hfidx hf
    have hn0 : n ≠ 0 := by rintro rfl; simp [hfr, rddFrames] at hlt
    rw [rddFrames_of_ne hn0] at hfr
    have h0 : s.fidx = 0 := by simpa [hfr] using hlt
    exact ⟨Nat.one_le_iff_ne_zero.2 hn0, by simp [hfr], by simp [State.frame, hfr, h0]⟩

end Sys2Proof.Machine
end

section
/-! PROOF. Nothing DEV sends on MISO can cause an error, whatever the request (60_exceptions.md R146). Two states with one
erasure differ in result words and in what was received only; every move can be taken with other result words
(`Move.withResults`) and, by a read request too, with anything received (`Move.withAnyReceived`). -/

namespace Sys2Proof.Machine

/-- The result words of a state: those of the respond to come, those of RESULT_WORDS, and those of the responses given. -/
structure Results where
  outcome : List Word
  register : List Word
  responses : List Response

/-- The state with the result words `w` in place of its own. -/
def State.withResults (s : State) (w : Results) : State :=
  { s with outcome := { s.outcome with words := w.outcome }, resultWords := w.register, responses := w.responses }

/-- `w` differs from the results of `s` in the values of words only. -/
structure Results.Like (w : Results) (s : State) : Prop where
  outcome : w.outcome.length = s.outcome.words.length
  register : w.register.length = s.resultWords.length
  responses : w.responses.map Response.eraseWords = s.responses.map Response.eraseWords

theorem eraseRxAndWords_withResults {s : State} {w : Results} (h : w.Like s) :
    (s.withResults w).eraseRxAndWords = s.eraseRxAndWords := by
  simp [State.eraseRxAndWords, State.eraseRx, State.withResults, Response.eraseWords, eraseWords, h.outcome, h.register,
    h.responses]

theorem eraseRxAndWords_withReceived {s : State} {v : Received} (h : v.Like s) :
    (s.withReceived v).eraseRxAndWords = s.eraseRxAndWords := by
  rw [State.eraseRxAndWords, eraseRx_withReceived h]
  rfl

/-- Two states with one erasure: but for what was received, the second is the first with other result words. -/
theorem exists_withResults {s t : State} (h : s.eraseRxAndWords = t.eraseRxAndWords) :
    ∃ w : Results, w.Like s ∧ (s.withResults w).eraseRx = t.eraseRx := by
  refine ⟨⟨t.outcome.words, t.resultWords, t.responses⟩, ⟨?_, ?_, congrArg State.responses h.symm⟩, ?_⟩
  · simpa [State.eraseRxAndWords, Response.eraseWords, eraseWords] using
      congrArg (fun u : State => u.outcome.words.length) h.symm
  · simpa [State.eraseRxAndWords, eraseWords] using congrArg (fun u : State => u.resultWords.length) h.symm
  · obtain ⟨⟩ := s
    obtain ⟨⟩ := t
    simp_all [State.eraseRxAndWords, State.eraseRx, State.withResults, Response.eraseWords, eraseWords]

/-! Every move, with other result words. -/

/-- Only `respond` reads result words, and it copies them. -/
theorem Move.withResults {r : Recipe} {s t : State} {w : Results} (hm : Move r s t) (h : w.Like s) :
    ∃ w' : Results, w'.Like t ∧ Move r (s.withResults w) (t.withResults w') := by
  cases hm with
  | accept hp hf => exact ⟨{ w with outcome := [] }, ⟨rfl, h.register, h.responses⟩, .accept hp hf⟩
  | refuse e info hp hc => exact ⟨{ w with outcome := [] }, ⟨rfl, h.register, h.responses⟩, .refuse e info hp hc⟩
  | toCodec hp hc => exact ⟨w, ⟨h.outcome, h.register, h.responses⟩, .toCodec hp hc⟩
  | noFrames hp hc => exact ⟨{ w with outcome := [] }, ⟨rfl, h.register, h.responses⟩, .noFrames hp hc⟩
  | toFrames f fs hp hc => exact ⟨{ w with outcome := [] }, ⟨rfl, h.register, h.responses⟩, .toFrames f fs hp hc⟩
  | codec hp => exact ⟨{ w with outcome := r.codecWords }, ⟨rfl, h.register, h.responses⟩, .codec hp⟩
  | assert hp => exact ⟨w, ⟨h.outcome, h.register, h.responses⟩, .assert hp⟩
  | gatePass hp hh => exact ⟨w, ⟨h.outcome, h.register, h.responses⟩, .gatePass hp hh⟩
  | gateTimeout hp hh ht => exact ⟨{ w with outcome := [] }, ⟨rfl, h.register, h.responses⟩, .gateTimeout hp hh ht⟩
  | gateWait hp hh ht => exact ⟨w, ⟨h.outcome, h.register, h.responses⟩, .gateWait hp hh ht⟩
  | xferHi x hp hx => exact ⟨w, ⟨h.outcome, h.register, h.responses⟩, .xferHi x hp hx⟩
  | nextWord x hp hx hl => exact ⟨w, ⟨h.outcome, h.register, h.responses⟩, .nextWord x hp hx hl⟩
  | lastWord x hp hx hl => exact ⟨w, ⟨h.outcome, h.register, h.responses⟩, .lastWord x hp hx hl⟩
  | endAborted hp ho => exact ⟨w, ⟨h.outcome, h.register, h.responses⟩, .endAborted hp ho⟩
  | nextFrame hp ho hl => exact ⟨w, ⟨h.outcome, h.register, h.responses⟩, .nextFrame hp ho hl⟩
  | lastFrame hp ho hl =>
    exact ⟨{ w with outcome := (frameOutcome r.reads s.rxq).words }, ⟨rfl, h.register, h.responses⟩, .lastFrame hp ho hl⟩
  | respond hp =>
    refine ⟨⟨[], w.outcome, (Machine.respond (s.withResults w)).responses⟩, ⟨rfl, h.outcome, ?_⟩, .respond hp⟩
    simp [State.withResults, h.responses, Response.eraseWords, eraseWords, h.outcome]

/-! Every move, with anything received, whether the request reads or not. -/

/-- Only the end of a frame depends on whether the words received are a result. -/
theorem phaseStep_reads_update (r : Recipe) (b : Bool) {s : State} (hp : s.phase ≠ .deassert) :
    phaseStep { r with reads := b } s = phaseStep r s := by
  unfold phaseStep primitive
  cases hph : s.phase with
  | deassert => exact absurd hph hp
  | _ => rfl

theorem Move.reads_update {r : Recipe} {s t : State} (hm : Move r s t) (hp : s.phase ≠ .deassert) (b : Bool) :
    Move { r with reads := b } s t :=
  phaseStep_move ((phaseStep_reads_update r b hp).trans (phaseStep_of_move hm))

/-- At the end of a frame as many words are returned, whatever they are. -/
theorem eraseRxAndWords_frameEnded {s : State} {v : Received} (h : v.Like s) (reads : Bool) :
    (frameEnded reads (s.withReceived v)).eraseRxAndWords = (frameEnded reads s).eraseRxAndWords := by
  have hrx : eraseWords v.rxq = eraseWords s.rxq := by rw [eraseWords, h.rxq, eraseWords]
  have hret : (frameOutcome reads v.rxq).eraseWords = (frameOutcome reads s.rxq).eraseWords := by
    cases reads <;> simp [frameOutcome, Response.eraseWords, eraseWords, h.rxq]
  unfold frameEnded
  by_cases ho : s.outcome.status = .ok
  · by_cases hl : s.fidx + 1 < s.frames.length
    · simp [State.withReceived, State.eraseRxAndWords, State.eraseRx, ho, hl, hrx, h.trace, h.miso]
    · simp [State.withReceived, State.eraseRxAndWords, State.eraseRx, ho, hl, hrx, h.trace, h.miso, hret]
  · simp [State.withReceived, State.eraseRxAndWords, State.eraseRx, ho, hrx, h.trace, h.miso]

theorem Move.unique {r : Recipe} {s t u : State} (ht : Move r s t) (hu : Move r s u) : t = u := by
  simpa [phaseStep_of_move ht] using phaseStep_of_move hu

theorem Move.withAnyReceived {r : Recipe} {s t : State} {v : Received} (hm : Move r s t) (h : v.Like s) :
    ∃ t', Move r (s.withReceived v) t' ∧ t'.eraseRxAndWords = t.eraseRxAndWords := by
  by_cases hp : s.phase = .deassert
  · obtain rfl := hm.unique (deassert_move hp)
    obtain ⟨v', h', hcs⟩ := setCS_withReceived h true
    refine ⟨_, deassert_move hp, ?_⟩
    rw [hcs, eraseRxAndWords_frameEnded h']
  · obtain ⟨v', h', hm'⟩ := (hm.reads_update hp false).withReceived rfl h
    exact ⟨_, hm'.reads_update hp r.reads, eraseRxAndWords_withReceived h'⟩

/-! Every step, from any state with the same erasure. -/

theorem Move.eraseRxAndWords_congr {r : Recipe} {s t s' : State} (hm : Move r s s')
    (h : s.eraseRxAndWords = t.eraseRxAndWords) :
    ∃ t', Move r t t' ∧ s'.eraseRxAndWords = t'.eraseRxAndWords := by
  obtain ⟨w, hw, he⟩ := exists_withResults h
  obtain ⟨v, hv, rfl⟩ := exists_withReceived he
  obtain ⟨w', hw', hm'⟩ := hm.withResults hw
  obtain ⟨t', ht, het⟩ := hm'.withAnyReceived hv
  exact ⟨t', ht, (het.trans (eraseRxAndWords_withResults hw')).symm⟩

theorem recipeOfRequest_frames_congr {s t : State} (h : s.frames = t.frames) (r : Request) :
    recipeOfRequest s r = recipeOfRequest t r := by
  unfold recipeOfRequest
  cases decode r with
  | instr i => cases i <;> simp [recipeOf, h]
  | _ => rfl

theorem RunMove.eraseRxAndWords_congr {s t s' : State} (hm : RunMove s s')
    (h : s.eraseRxAndWords = t.eraseRxAndWords) :
    ∃ t', RunMove t t' ∧ s'.eraseRxAndWords = t'.eraseRxAndWords := by
  have hphase : t.phase = s.phase := (congrArg State.phase h.symm :)
  have hreq : t.env.requests = s.env.requests := (congrArg (fun u : State => u.env.requests) h.symm :)
  have hparams : t.params = s.params := (congrArg State.params h.symm :)
  have hlatch : t.reqLatch = s.reqLatch := (congrArg State.reqLatch h.symm :)
  have hframes : s.frames = t.frames := (congrArg State.frames h :)
  cases hm with
  | wait hp hq => exact ⟨t, .wait (hphase.trans hp) (hreq.trans hq), h⟩
  | take r rest hp hq hf =>
    exact ⟨_, .take r rest (hphase.trans hp) (hreq.trans hq) (hparams ▸ hf),
      congrArg (fun u => latch r (withRequests rest u)) h⟩
  | latched r _ hp hr hm =>
    obtain ⟨t', hm', he⟩ := hm.eraseRxAndWords_congr h
    rw [recipeOfRequest_frames_congr hframes] at hm'
    exact ⟨t', .latched r t' (hphase ▸ hp) (hlatch.trans hr) hm', he⟩

/-- A reset erased is a reset of the erased state, RXHI apart, which is erased. -/
theorem eraseRxAndWords_resetStep (s : State) :
    (resetStep s).eraseRxAndWords = { resetStep s.eraseRxAndWords with rxhi := 0#8 } := by
  have hcs : (csEvents s.csN true).map BusEvent.eraseRx = csEvents s.csN true := by cases s.csN <;> rfl
  simp [State.eraseRxAndWords, State.eraseRx, resetStep, hcs, eraseWords, State.reset, Response.eraseWords, Response.blank]

theorem StepMove.eraseRxAndWords_congr {s t s' : State} (hm : StepMove s s')
    (h : s.eraseRxAndWords = t.eraseRxAndWords) :
    ∃ t', StepMove t t' ∧ s'.eraseRxAndWords = t'.eraseRxAndWords := by
  have hreset : t.env.resetN = s.env.resetN := (congrArg (fun u : State => u.env.resetN) h.symm :)
  cases hm with
  | free u hn hm =>
    obtain ⟨u', hm', he⟩ := hm.eraseRxAndWords_congr h
    exact ⟨_, .free u' (hreset.trans hn) hm', congrArg floatMosi he⟩
  | released rest u hn hm =>
    obtain ⟨u', hm', he⟩ := hm.eraseRxAndWords_congr (t := withResetN rest t) (congrArg (withResetN rest) h)
    exact ⟨_, .released rest u' (hreset.trans hn) hm', congrArg floatMosi he⟩
  | reset rest hn =>
    refine ⟨_, .reset rest (hreset.trans hn), ?_⟩
    have he : (withResetN rest s).eraseRxAndWords = (withResetN rest t).eraseRxAndWords := congrArg (withResetN rest) h
    rw [eraseRxAndWords_resetStep, eraseRxAndWords_resetStep, he]

/-- Settles O52: whatever was received and whatever the result words are, the same move can be taken, and the erasure of
where it leads is the same (`Move.eraseRxAndWords_congr`). -/
theorem nothingReceivedCausesAnError : Obligations.NothingReceivedCausesAnError := by
  unfold Obligations.NothingReceivedCausesAnError
  intro s t s' h hs
  obtain ⟨t', hm, he⟩ := (step_move hs).eraseRxAndWords_congr h
  exact ⟨t', step_of_stepMove hm, he⟩

end Sys2Proof.Machine
end

section
/-! PROOF. Status codes, and what a step may do to the response and the latched request (60_exceptions.md R135, R136,
R162): only `respond` answers and only it empties the latch, and no move reads the requests HOST presents. -/

namespace Sys2Proof.Machine

/-- Settles O41: the five values, and each of them at most 4. -/
theorem statusNumbers : Obligations.StatusNumbers := by
  unfold Obligations.StatusNumbers
  exact ⟨rfl, rfl, rfl, rfl, rfl, fun e => by cases e <;> decide⟩

/-! One response for each request. -/

/-- From `s` to `t` nothing HOST is told changes: the responses, STAT.CODE, ERR_INFO and the results. -/
def SameAnswer (s t : State) : Prop :=
  t.responses = s.responses ∧ t.code = s.code ∧ t.errInfo = s.errInfo ∧ t.resultWords = s.resultWords ∧
    t.resultBytes = s.resultBytes

theorem Move.sameAnswer {r : Recipe} {s t : State} (hm : Move r s t) (hp : s.phase ≠ .done) : SameAnswer s t := by
  cases hm with
  | respond hp' => exact absurd hp' hp
  | _ => exact ⟨rfl, rfl, rfl, rfl, rfl⟩

theorem Move.eq_respond {r : Recipe} {s t : State} (hm : Move r s t) (hp : s.phase = .done) : t = Machine.respond s := by
  simpa [phaseStep_of_move (.respond hp)] using (phaseStep_of_move hm).symm

theorem RunMove.sameAnswer {s t : State} (hm : RunMove s t) (hp : s.phase ≠ .done) : SameAnswer s t := by
  cases hm with
  | latched r _ _ _ hm => exact hm.sameAnswer hp
  | _ => exact ⟨rfl, rfl, rfl, rfl, rfl⟩

theorem RunMove.eq_respond {s t : State} (hm : RunMove s t) (hp : s.phase = .done) : t = Machine.respond s := by
  cases hm with
  | wait hi => simp [hp] at hi
  | take _ _ hi => simp [hp] at hi
  | latched r _ _ _ hm => exact hm.eq_respond hp

/-- A step that is no reset is a move, from the state in which the level of RESET_N is used up. -/
theorem StepMove.exists_runMove {s t : State} (hm : StepMove s t) (hn : s.env.resetN.head? ≠ some false) :
    ∃ rest u, RunMove (withResetN rest s) u ∧ t = floatMosi u := by
  cases hm with
  | free u hn' hm => exact ⟨[], u, by simpa [withResetN, ← hn'] using hm, rfl⟩
  | released rest u _ hm => exact ⟨rest, u, hm, rfl⟩
  | reset rest hn' => simp [hn'] at hn

/-- Settles O39: only `respond` answers, it is the only move of DONE, and a reset keeps the responses given. -/
theorem oneResponsePerRequest : Obligations.OneResponsePerRequest := by
  unfold Obligations.OneResponsePerRequest
  intro s t h
  refine ⟨fun hn => ?_, fun hn hp => ?_, fun hn hp => ?_⟩
  · cases step_move h with
    | free u hn' => simp [hn'] at hn
    | released rest u hn' => simp [hn'] at hn
    | reset rest => rfl
  · obtain ⟨rest, u, hm, rfl⟩ := (step_move h).exists_runMove hn
    exact hm.sameAnswer hp
  · obtain ⟨rest, u, hm, rfl⟩ := (step_move h).exists_runMove hn
    obtain rfl := hm.eq_respond hp
    exact ⟨rfl, _, rfl, rfl⟩

/-! What HOST presents meanwhile. -/

theorem drawHrdy_requests_update (e : Env) (q : List Request) :
    drawHrdy { e with requests := q } = ((drawHrdy e).1, { (drawHrdy e).2 with requests := q }) := by
  cases h : e.hrdy <;> simp [drawHrdy, h]

theorem drawMiso_requests_update (e : Env) (q : List Request) :
    drawMiso { e with requests := q } = ((drawMiso e).1, { (drawMiso e).2 with requests := q }) := by
  cases h : e.miso <;> simp [drawMiso, h]

theorem sampleHrdy_withRequests (q : List Request) (s : State) :
    sampleHrdy (withRequests q s) = ((sampleHrdy s).1, withRequests q (sampleHrdy s).2) := by
  simp [sampleHrdy, withRequests, drawHrdy_requests_update]

theorem spiXfer8_withRequests (tx : Byte) (q : List Request) (s : State) :
    spiXfer8 tx (withRequests q s) = ((spiXfer8 tx s).1, withRequests q (spiXfer8 tx s).2) := by
  simp [spiXfer8, withRequests, drawMiso_requests_update]

/-- Bookkeeping does not read the requests HOST presents. -/
theorem Bookkeeping.perform_withRequests (b : Bookkeeping) (q : List Request) (s : State) :
    b.perform (withRequests q s) = withRequests q (b.perform s) := by
  cases b with
  | validated c =>
    match c with
    | .raise e info => rfl
    | .pass .codec => rfl
    | .pass (.frames []) => rfl
    | .pass (.frames (f :: fs)) => rfl
  | sampled h => simp only [perform, Machine.sampled, apply_ite (withRequests q)]; rfl
  | wordSent rxl => simp only [perform, Machine.wordSent, apply_ite (withRequests q)]; rfl
  | frameEnded reads => simp only [perform, Machine.frameEnded, apply_ite (withRequests q)]; rfl
  | _ => rfl

/-- Nor does any primitive, the acceptance of a record in IDLE included: `r` is the record, not what is presented. -/
theorem primitive_withRequests {r : Recipe} {s t : State} {b : Bookkeeping} (q : List Request)
    (h : primitive r s = .next (t, b)) : primitive r (withRequests q s) = .next (withRequests q t, b) := by
  have hw : (withRequests q s).word? = s.word? := rfl
  unfold primitive at h ⊢
  rw [withRequests_phase]
  cases hp : s.phase <;> simp only [hp] at h ⊢
  case idle =>
    by_cases hf : r.request.fits s.params.hostValueWidth = true
    · simp only [acceptPrimitive, Machine.accept, withRequests_params, hf, if_true] at h ⊢
      cases h
      rfl
    · simp [acceptPrimitive, Machine.accept, hf] at h
  case gate =>
    cases h
    rw [sampleHrdy_withRequests]
  case xferHi | xferLo =>
    simp only [xferHiPrimitive, xferLoPrimitive, hw] at h ⊢
    cases hs : s.word? with
    | none => simp [hs] at h
    | some w =>
      simp only [hs, spiXfer8_withRequests] at h ⊢
      cases h
      rfl
  all_goals
    cases h
    rfl

theorem Move.withRequests {r : Recipe} {s t : State} (hm : Move r s t) (q : List Request) :
    Move r (Machine.withRequests q s) (Machine.withRequests q t) := by
  have h := phaseStep_of_move hm
  unfold phaseStep at h
  cases hprim : primitive r s with
  | next p =>
    obtain ⟨u, b⟩ := p
    obtain rfl : b.perform u = t := by simpa [hprim, perform] using h
    refine phaseStep_move ?_
    rw [phaseStep, primitive_withRequests q hprim, perform, b.perform_withRequests]
  | fault f => simp [hprim, perform] at h
  | refused f => simp [hprim, perform] at h

/-- Outside IDLE, whatever HOST presents, the move is the same. -/
theorem RunMove.withRequests {s t : State} (hm : RunMove s t) (hp : s.phase ≠ .idle) (q : List Request) :
    RunMove (Machine.withRequests q s) (Machine.withRequests q t) := by
  cases hm with
  | wait hi => exact absurd hi hp
  | take _ _ hi => exact absurd hi hp
  | latched r _ _ hr hm => exact .latched r _ hp hr (recipeOfRequest_frames_congr rfl r ▸ hm.withRequests q)

theorem StepMove.withRequests {s t : State} (hm : StepMove s t) (hp : s.phase ≠ .idle) (q : List Request) :
    StepMove (Machine.withRequests q s) (Machine.withRequests q t) := by
  cases hm with
  | free u hn hm => exact .free (s := Machine.withRequests q s) _ hn (hm.withRequests hp q)
  | released rest u hn hm => exact .released (s := Machine.withRequests q s) rest _ hn (hm.withRequests hp q)
  | reset rest hn => exact .reset (s := Machine.withRequests q s) rest hn

theorem RunMove.requests {s t : State} (hm : RunMove s t) (hp : s.phase ≠ .idle) : t.env.requests = s.env.requests := by
  cases hm with
  | wait hi => exact absurd hi hp
  | take _ _ hi => exact absurd hi hp
  | latched r _ _ _ hm => exact hm.requests

theorem StepMove.requests {s t : State} (hm : StepMove s t) (hp : s.phase ≠ .idle) :
    t.env.requests = s.env.requests := by
  cases hm with
  | free u _ hm => exact hm.requests hp
  | released rest u _ hm => exact hm.requests hp
  | reset rest => rfl

/-- The latch is written at acceptance and by `respond` only. -/
theorem Move.reqLatch {r : Recipe} {s t : State} (hm : Move r s t) (hi : s.phase ≠ .idle) (hd : s.phase ≠ .done) :
    t.reqLatch = s.reqLatch := by
  cases hm with
  | accept hp => exact absurd hp hi
  | respond hp => exact absurd hp hd
  | _ => rfl

theorem RunMove.reqLatch {s t : State} (hm : RunMove s t) (hi : s.phase ≠ .idle) (hd : s.phase ≠ .done) :
    t.reqLatch = s.reqLatch := by
  cases hm with
  | wait hp => exact absurd hp hi
  | take _ _ hp => exact absurd hp hi
  | latched r _ _ _ hm => exact hm.reqLatch hi hd

/-- Settles O38: outside IDLE no move reads the requests HOST presents (`StepMove.withRequests`), and only `respond`
empties the latch; in IDLE the first of them is taken. -/
theorem busyControllerTakesNoRequest : Obligations.BusyControllerTakesNoRequest := by
  unfold Obligations.BusyControllerTakesNoRequest
  intro s t
  refine ⟨fun hp h => ?_, fun r rest hp hn hq hf => ?_⟩
  · have hm := step_move h
    refine ⟨fun q => step_of_stepMove (hm.withRequests hp q), hm.requests hp, fun hn hd => ?_⟩
    obtain ⟨rest, u, hu, rfl⟩ := hm.exists_runMove hn
    exact hu.reqLatch hp hd
  · exact ⟨_, step_of_stepMove (.free _ hn (.take r rest hp hq hf)), rfl⟩

end Sys2Proof.Machine
end

section
/-! PROOF. Validation (60_exceptions.md R143, R145): each failure of the checks, in their order, leads from an accepted
request to its refusal, and a refusal leaves the bus alone. -/

namespace Sys2Proof.Machine

/-- The state after a validation that raised an error on an idle bus: DONE, with the error to be answered (R147). -/
def State.raised (s : State) (e : Status) (info : Nat) : State :=
  { s with outcome := { status := e, words := [], bytes := [], info := info }, phase := .done }

theorem abort_agrees {s : State} (hc : s.csN = true) (e : Status) (info : Nat) :
    (floatMosi (abort e info s)).Agrees (s.raised e info) :=
  ⟨Config.freeMosi s.env.draws, s.env.draws + 1, by simp [abort, floatMosi, State.raised, hc]⟩

theorem State.Accepted.step_refused {s : State} {r : Request} {e : Status} {info : Nat} (h : s.Accepted r)
    (hplan : planOfRequest s.params r = .raise e info) : step s = .next (floatMosi (abort e info s)) := by
  obtain ⟨hp, hr, -, -, -, hn⟩ := h
  exact step_of_move hn (by simp [hp]) hr (.refuse e info hp (by simpa using hplan))

theorem State.Accepted.exec_refused {s : State} {r : Request} {i : Instr} {e : Status} {info : Nat} (h : s.Accepted r)
    (hplan : planOf s.params i = .raise e info) : ∃ t, exec i s = .next t ∧ t.Agrees (s.raised e info) := by
  obtain ⟨hp, -, -, -, hc, -⟩ := h
  exact ⟨_, exec_of_move (.refuse e info hp (by simpa using hplan)), abort_agrees hc e info⟩

theorem State.Accepted.exec_toCodec {s : State} {r : Request} {i : Instr} (h : s.Accepted r)
    (hplan : planOf s.params i = .pass .codec) : ∃ t, exec i s = .next t ∧ t.Agrees { s with phase := .codec } := by
  obtain ⟨hp, -⟩ := h
  exact ⟨_, exec_of_move (.toCodec hp (by simpa using hplan)), _, _, rfl⟩

theorem State.Accepted.exec_toFrames {s : State} {r : Request} {i : Instr} {fs : List (List Word)} (h : s.Accepted r)
    (hplan : planOf s.params i = .pass (.frames fs)) :
    ∃ t, exec i s = .next t ∧ t.Agrees { s with
      frames := fs, outcome := Response.blank, phase := if fs = [] then .done else .assert } := by
  obtain ⟨hp, -⟩ := h
  match fs with
  | [] => exact ⟨_, exec_of_move (.noFrames hp (by simpa using hplan)), _, _, rfl⟩
  | f :: fs => exact ⟨_, exec_of_move (.toFrames f fs hp (by simpa using hplan)), _, _, rfl⟩

/-- A header with RSV not 0, or with OP 6 or 7, selects no request (30_encoding.md R68, R71). -/
theorem decode_ne_instr_of_fields {r : Request}
    (h : hdrRsv r.hdr ≠ 0#13 ∨ hdrOp r.hdr = 0b110#3 ∨ hdrOp r.hdr = 0b111#3) (i : Instr) : decode r ≠ .instr i := by
  obtain ⟨hiff, -⟩ := illegalHeaderIsRefused r
  refine hiff.2 ?_ i
  have hval := hdr_toNat r.hdr
  rcases h with hrsv | hop | hop
  · have : (hdrRsv r.hdr).toNat ≠ 0 := by simpa [← BitVec.toNat_inj] using hrsv
    omega
  · have : (hdrOp r.hdr).toNat = 6 := congrArg BitVec.toNat hop
    omega
  · have : (hdrOp r.hdr).toNat = 7 := congrArg BitVec.toNat hop
    omega

/-- Settles O17: the plan of the request says which check fails first (`planOf_tooLong`, `planOf_firstWide`,
`planOf_b2w_odd`) or that none does, and the step follows the plan. -/
theorem validationRaisesFirstFailure : Obligations.ValidationRaisesFirstFailure := by
  unfold Obligations.ValidationRaisesFirstFailure
  intro s r h
  refine ⟨fun hhdr => ?_, fun i _ => ⟨fun hl => ?_, fun hl k hk => ?_, fun hl bs hi ho => ?_, fun hl hr => ⟨?_, ?_, ?_⟩⟩⟩
  · obtain ⟨-, -, -, -, hc, -⟩ := id h
    exact ⟨_, h.step_refused (planOfRequest_illegal (decode_ne_instr_of_fields hhdr)), abort_agrees hc _ _⟩
  · exact h.exec_refused (planOf_tooLong hl)
  · exact h.exec_refused (planOf_firstWide hl hk)
  · subst hi
    exact h.exec_refused (planOf_b2w_odd hl ho)
  · rintro ws rfl
    exact h.exec_toCodec (planOf_w2b hl hr)
  · rintro bs rfl he
    exact h.exec_toCodec (planOf_b2w hl he)
  · exact fun fs hplan => h.exec_toFrames hplan

theorem step_of_steps_one {s t : State} (h : steps 1 s = .next t) : step s = .next t := by
  cases hs : step s with
  | next u => rwa [steps_one hs] at h
  | fault f => simp [steps, hs] at h
  | refused f => simp [steps, hs] at h

/-- Settles O18: validation leads to DONE without touching the bus, and `refused_run` follows it to the answer. -/
theorem refusalLeavesTheBusAlone : Obligations.RefusalLeavesTheBusAlone := by
  unfold Obligations.RefusalLeavesTheBusAlone
  intro s r e info h hplan
  have hstep := h.step_refused hplan
  obtain ⟨-, -, -, -, hc, -⟩ := id h
  obtain ⟨u, hu, hanswer⟩ := refused_run h hplan
  rw [steps_succ hstep] at hu
  obtain ⟨b, m, n, rfl⟩ := id hanswer
  exact ⟨_, _, hstep, rfl, hc, rfl, rfl, step_of_steps_one hu, rfl, hanswer⟩

end Sys2Proof.Machine
end

section
/-! PROOF. A gate that times out (41_transport.md R106; 60_exceptions.md R141, R147, R148), in any word of any frame of a
request: the frames before it are whole, its own frame is cut, and the request is answered with the words sent. -/

namespace Sys2Proof.Machine

theorem timeoutEvents_whole (T : Nat) {f : List Word} (fs : List (List Word)) {ds : List WordDraw}
    (h : f.length ≤ ds.length) :
    timeoutEvents T (f :: fs) ds = frameEvents f (ds.take f.length) ++ timeoutEvents T fs (ds.drop f.length) := if_pos h

theorem timeoutEvents_cut (T : Nat) {f : List Word} (fs : List (List Word)) {ds : List WordDraw}
    (h : ds.length < f.length) :
    timeoutEvents T (f :: fs) ds = .csl :: wordsEvents f ds ++ List.replicate T (.poll false) ++ [.csh] :=
  if_neg (Nat.not_le.2 h)

/-- Some words of a frame, none included, and not all that are left: the next gate follows. -/
theorem words_run_to_gate {r : Request} {ds : List WordDraw} {s : State} {hs : List Bool} {ms : List Byte}
    (hn : s.env.resetN = []) (hp : s.phase = .gate) (hr : s.reqLatch = some r) (hpl : s.polls = 0)
    (hlen : s.widx + ds.length < s.frame.length) (hh : s.env.hrdy = hrdyOf ds ++ hs)
    (hm : s.env.miso = misoOf ds ++ ms) (hg : gatesPass s.params ds) :
    ∃ m n c b, steps (wordSteps ds) s = .next { s with
      mosi := m, sck := c, rxhi := b
      rxq := s.rxq ++ receivedOf ds, sent := s.sent + ds.length, widx := s.widx + ds.length
      trace := s.trace ++ wordsEvents (s.frame.drop s.widx) ds
      env := { s.env with hrdy := hs, miso := ms, draws := n } } := by
  by_cases hds : ds = []
  · subst hds
    obtain rfl : s.env.hrdy = hs := hh
    obtain rfl : s.env.miso = ms := hm
    exact ⟨s.mosi, s.env.draws, s.sck, s.rxhi, by simp [wordSteps, receivedOf, wordsEvents]⟩
  · obtain ⟨m, n, p, b, h⟩ := words_run ds hn hp hr hpl hds (Nat.le_of_lt hlen) hh hm hg
    rw [if_pos hlen, if_pos hlen, ← hp, ← hpl] at h
    exact ⟨m, n, _, b, h⟩

/-- A frame whose gates pass for the words of `ds` and whose next gate times out, from SetCS(0) to SetCS(1). -/
theorem frame_timeout_run {r : Request} {s : State} {ds : List WordDraw} {T : Nat} {hs : List Bool} {ms : List Byte}
    (hn : s.env.resetN = []) (hp : s.phase = .assert) (hr : s.reqLatch = some r) (hc : s.csN = true)
    (hl : ds.length < s.frame.length) (hT : s.params.readyTimeoutPolls = some T) (h1 : 1 ≤ T)
    (hh : s.env.hrdy = hrdyOf ds ++ (List.replicate T false ++ hs)) (hm : s.env.miso = misoOf ds ++ ms)
    (hg : gatesPass s.params ds) :
    ∃ m n c b, steps (wordSteps ds + T + 2) s = .next { s with
      phase := .done
      outcome := { status := .deviceNotResponding, words := [], bytes := [], info := s.sent + ds.length }
      polls := T, mosi := m, sck := c, rxhi := b
      rxq := receivedOf ds, sent := s.sent + ds.length, widx := ds.length
      trace := s.trace ++ (.csl :: wordsEvents s.frame ds ++ List.replicate T (.poll false) ++ [.csh])
      env := { s.env with hrdy := hs, miso := ms, draws := n } } := by
  have hassert := step_of_move (r := r) hn (by simp [hp]) hr (.assert hp)
  set s1 := floatMosi (startFrame (setCS false s)) with hs1
  have hframe : s1.frame = s.frame := rfl
  obtain ⟨m, n, c, b, hwords⟩ := words_run_to_gate (r := r) (ds := ds) (s := s1) hn rfl hr rfl
    (by rw [hframe]; show 0 + ds.length < _; omega) hh hm hg
  set s2 : State := { s1 with
    mosi := m, sck := c, rxhi := b
    rxq := s1.rxq ++ receivedOf ds, sent := s1.sent + ds.length, widx := s1.widx + ds.length
    trace := s1.trace ++ wordsEvents (s1.frame.drop s1.widx) ds
    env := { s1.env with hrdy := List.replicate T false ++ hs, miso := ms, draws := n } } with hs2
  obtain ⟨m', n', hgate⟩ := gate_timeout_run (r := r) (s := s2) hn rfl hr rfl rfl hT h1 rfl
  have hend := step_of_move (r := r) (s := { s2 with
      phase := .deassert, outcome := { status := .deviceNotResponding, words := [], bytes := [], info := s2.sent }
      polls := T, mosi := m', trace := s2.trace ++ List.replicate T (.poll false)
      env := { s2.env with hrdy := hs, draws := n' } }) hn (by simp) hr (.endAborted rfl (by simp))
  refine ⟨Config.freeMosi n', n' + 1, c, b, ?_⟩
  rw [show wordSteps ds + T + 2 = wordSteps ds + (T + 1) + 1 from rfl, steps_succ hassert, steps_add hwords,
    steps_add hgate, steps_one hend]
  simp [hs2, hs1, hc, floatMosi, setCS, startFrame, enterGate, State.frame]

/-- FRAMES from FIDX on is the frame in progress and the frames after it. -/
theorem frame_of_drop_fidx {s : State} {f : List Word} {fs : List (List Word)} (h : s.frames.drop s.fidx = f :: fs) :
    s.frame = f ∧ s.frames.drop (s.fidx + 1) = fs := by
  have hlt : s.fidx < s.frames.length := by
    by_contra hge
    simp [List.drop_eq_nil_of_le (Nat.not_lt.1 hge)] at h
  rw [List.drop_eq_getElem_cons hlt, List.cons.injEq] at h
  obtain ⟨hf, hfs⟩ := h
  exact ⟨by simp [State.frame, hlt, hf], hfs⟩

/-- The frames from FIDX on, the gate of word number `ds.length` of them timing out. -/
theorem frames_timeout_run {r : Request} {T : Nat} : ∀ (fs : List (List Word)) {s : State} {ds : List WordDraw}
    {hs : List Bool} {ms : List Byte}, s.frames.drop s.fidx = fs → (∀ f ∈ fs, f ≠ []) →
    s.env.resetN = [] → s.phase = .assert → s.reqLatch = some r → s.csN = true → s.outcome.status = .ok →
    s.params.readyTimeoutPolls = some T → 1 ≤ T → ds.length < wordCount fs →
    s.env.hrdy = hrdyOf ds ++ (List.replicate T false ++ hs) → s.env.miso = misoOf ds ++ ms →
    gatesPass s.params ds →
    ∃ k m n p b c w rx i, steps k s = .next { s with
      phase := .done
      outcome := { status := .deviceNotResponding, words := [], bytes := [], info := s.sent + ds.length }
      polls := p, mosi := m, sck := c, rxhi := b
      rxq := rx, sent := s.sent + ds.length, widx := w, fidx := i
      trace := s.trace ++ timeoutEvents T fs ds
      env := { s.env with hrdy := hs, miso := ms, draws := n } }
  | [], _, _, _, _, _, _, _, _, _, _, _, _, _, hl, _, _, _ => absurd hl (Nat.not_lt_zero _)
  | f :: fs, s, ds, hs, ms, hd, hne, hn, hp, hr, hc, ho, hT, h1, hl, hh, hm, hg => by
    obtain ⟨rfl, hfs⟩ := frame_of_drop_fidx hd
    rcases Nat.lt_or_ge ds.length s.frame.length with hcut | hwhole
    · obtain ⟨m, n, c, b, h⟩ := frame_timeout_run hn hp hr hc hcut hT h1 hh hm hg
      rw [timeoutEvents_cut T fs hcut]
      exact ⟨_, m, n, _, b, c, _, _, s.fidx, h⟩
    · rw [wordCount_cons] at hl
      have hmore : s.fidx + 1 < s.frames.length := by
        by_contra hge
        rw [List.drop_eq_nil_of_le (Nat.not_lt.1 hge)] at hfs
        subst hfs
        exact absurd hl (Nat.not_lt.2 hwhole)
      obtain ⟨m, n, p, b, hframe⟩ := frame_run (r := r) (ds := ds.take s.frame.length)
        (hs := hrdyOf (ds.drop s.frame.length) ++ (List.replicate T false ++ hs))
        (ms := misoOf (ds.drop s.frame.length) ++ ms) hn hp hr hc ho (hne _ (by simp)) (by simpa using hwhole)
        (by rw [hh, hrdyOf_split ds s.frame.length, List.append_assoc])
        (by rw [hm, misoOf_split ds s.frame.length, List.append_assoc]) fun d h => hg d (List.mem_of_mem_take h)
      rw [if_pos hmore, if_pos hmore] at hframe
      obtain ⟨k, m', n', p', b', c, w, rx, i, hrest⟩ := frames_timeout_run fs (s := { s with
          phase := .assert, polls := p, mosi := m, sck := Config.sckIdle, rxhi := b
          rxq := receivedOf (ds.take s.frame.length), sent := s.sent + (ds.take s.frame.length).length
          widx := s.frame.length, fidx := s.fidx + 1
          trace := s.trace ++ frameEvents s.frame (ds.take s.frame.length)
          env := { s.env with
            hrdy := hrdyOf (ds.drop s.frame.length) ++ (List.replicate T false ++ hs)
            miso := misoOf (ds.drop s.frame.length) ++ ms, draws := n } }) (ds := ds.drop s.frame.length) hfs
        (fun g h => hne g (by simp [h])) hn rfl hr hc ho hT h1 (by rw [List.length_drop]; omega) rfl rfl
        fun d h => hg d (List.mem_of_mem_drop h)
      refine ⟨wordSteps (ds.take s.frame.length) + 2 + k, m', n', p', b', c, w, rx, i, (steps_add hframe).trans ?_⟩
      have hsent : s.sent + (ds.take s.frame.length).length + (ds.drop s.frame.length).length = s.sent + ds.length := by
        rw [Nat.add_assoc, ← List.length_append, List.take_append_drop]
      simp only [hrest, hsent, timeoutEvents_whole T fs hwhole, List.append_assoc]

/-- Settles O29: validation, the frames up to the gate that times out (`frames_timeout_run`), the response. -/
theorem timeoutEndsTheRequest : Obligations.TimeoutEndsTheRequest := by
  unfold Obligations.TimeoutEndsTheRequest
  intro s r i fs ds T h hd hplan hT h1 hl hg hdev
  obtain ⟨t, ht, hsteps⟩ := h.exists_exec hd
  obtain ⟨hp, hr, hfidx, hsent, hc, hn⟩ := h
  obtain ⟨⟨hs, hh⟩, ⟨ms, hm⟩⟩ := hdev
  match fs with
  | [] => exact absurd hl (Nat.not_lt_zero _)
  | f :: fs =>
    have hvalidate := step_of_move hn (by simp [hp]) hr
      (.toFrames f fs hp (by simpa [planOfRequest_of_decode hd] using hplan))
    obtain ⟨k, m, n, p, b, c, w, rx, j, hframes⟩ := frames_timeout_run (r := r) (T := T) (f :: fs)
      (s := floatMosi { s with frames := f :: fs, outcome := Response.blank, phase := .assert }) (hs := hs) (ms := ms)
      (by simp [hfidx]) (frames_ne_nil hplan) hn rfl hr hc rfl hT h1 hl (by rw [← List.append_assoc]; exact hh.symm)
      hm.symm hg
    have hrun := (steps_succ hvalidate _).trans (steps_respond hframes hn rfl hr)
    refine ⟨t, _, k + 1, ht, (hsteps _).trans hrun, ?_⟩
    simp [State.AnsweredAs, hc, hn, hsent]

end Sys2Proof.Machine
end

section
/-! PROOF. With a finite timeout every request is answered and every run ends (60_exceptions.md R157;
70_reset_and_hazards.md R182): the steps a request can still take are bounded by its place, and every move lowers the
bound. -/

namespace Sys2Proof.Machine

/-! The bound. -/

/-- A bound on the steps of some frames under a timeout of `T` polls: SetCS twice a frame, and for each word `T` polls
and two transfers. -/
def framesBound (T : Nat) (fs : List (List Word)) : Nat := 2 * fs.length + (T + 2) * wordCount fs

theorem framesBound_cons (T : Nat) (f : List Word) (fs : List (List Word)) :
    framesBound T (f :: fs) = 2 + (T + 2) * f.length + framesBound T fs := by
  simp only [framesBound, List.length_cons, wordCount_cons]
  ring

theorem framesBound_drop_le (T k : Nat) (fs : List (List Word)) : framesBound T (fs.drop k) ≤ framesBound T fs := by
  induction fs generalizing k with
  | nil => simp
  | cons f fs ih =>
    cases k with
    | zero => exact le_refl _
    | succ k =>
      rw [List.drop_succ_cons, framesBound_cons]
      exact (ih k).trans (Nat.le_add_left _ _)

/-- The same for what validation finds: without frames there is nothing on the bus. -/
def planBound (T : Nat) (c : Check Plan) : Nat :=
  match c with
  | .pass (.frames fs) => framesBound T fs
  | _ => 0

/-- A bound on the steps after the word in progress: the words and the end of its frame, the frames to come, and the
response. -/
def State.afterWord (T : Nat) (s : State) : Nat :=
  2 + (T + 2) * (s.frame.length - (s.widx + 1)) + framesBound T (s.frames.drop (s.fidx + 1))

/-- A bound on the steps until the request in progress is answered. -/
def State.stepsLeft (T : Nat) (s : State) : Nat :=
  match s.phase with
  | .idle => 0
  | .validate => 3 + planBound T s.plan
  | .codec => 2
  | .assert => 1 + framesBound T (s.frames.drop s.fidx)
  | .gate => (T - s.polls) + 2 + s.afterWord T
  | .xferHi => 2 + s.afterWord T
  | .xferLo => 1 + s.afterWord T
  | .deassert => 2 + framesBound T (s.frames.drop (s.fidx + 1))
  | .done => 1

theorem stepsLeft_pos (T : Nat) {s : State} (hp : s.phase ≠ .idle) : 0 < s.stepsLeft T := by
  unfold State.stepsLeft
  split <;> simp_all

/-- One word less. -/
theorem wordsBound_succ (T : Nat) {k n : Nat} (h : k < n) : (T + 2) * (n - k) = T + 2 + (T + 2) * (n - (k + 1)) := by
  rw [show n - k = n - (k + 1) + 1 by omega]
  ring

theorem drop_fidx {s : State} (h : s.fidx < s.frames.length) :
    s.frames.drop s.fidx = s.frame :: s.frames.drop (s.fidx + 1) := by
  rw [List.drop_eq_getElem_cons h]
  simp [State.frame, h]

/-- Every move of a request in progress lowers the bound. -/
theorem Move.stepsLeft_lt {r : Request} {s t : State} {T : Nat} (hm : Move (recipeOfRequest s r) s t) (h : s.Inv)
    (hp : s.phase ≠ .idle) (hr : s.reqLatch = some r) (hT : s.params.readyTimeoutPolls = some T) :
    t.stepsLeft T < s.stepsLeft T := by
  obtain ⟨-, ⟨hcs, -⟩, -, hplan, ⟨hfidx, hzero, -, hword, -⟩, -, hgate, -⟩ := h
  have polls_lt (hg : s.phase = .gate) : s.polls < T := by simpa [timedOut, hT] using hgate hg
  cases hm with
  | accept hi => exact absurd hi hp
  | refuse e info hv => simp [State.stepsLeft, hv, hcs, Phase.selected, Phase.inWord]; omega
  | toCodec hv => simp [State.stepsLeft, hv]; omega
  | noFrames hv => simp [State.stepsLeft, hv]; omega
  | toFrames f fs hv hpass =>
    obtain ⟨hf, -⟩ := hzero hv
    have hbound : s.plan = .pass (.frames (f :: fs)) := by simpa [State.plan, hr] using hpass
    simp [State.stepsLeft, hv, hf, hbound, planBound]
  | codec hc => simp [State.stepsLeft, hc]
  | assert ha =>
    have hf := hfidx (by rw [ha]; rfl)
    have hpos := frame_length_pos hplan (by rw [ha]; rfl) hf
    have hw := wordsBound_succ T hpos
    have hframe : (startFrame (setCS false s)).frame = s.frame := rfl
    simp [State.stepsLeft, ha, State.afterWord, drop_fidx hf, framesBound_cons, hframe] at hw ⊢
    omega
  | gatePass hg =>
    have hpolls := polls_lt hg
    show 2 + s.afterWord T < _
    simp [State.stepsLeft, hg]
    omega
  | gateTimeout hg =>
    have hpolls := polls_lt hg
    simp [State.stepsLeft, State.afterWord, hg, hcs, Phase.selected, Phase.inWord]
    omega
  | gateWait hg =>
    have hpolls := polls_lt hg
    have hafter : State.afterWord T (countPoll (sampleHrdy s).2) = s.afterWord T := rfl
    simp [State.stepsLeft, hg, hafter]
    omega
  | xferHi w hx =>
    show 1 + s.afterWord T < _
    simp [State.stepsLeft, hx]
  | nextWord w hx _ hl =>
    have hw := wordsBound_succ T hl
    have hframe : (enterGate (storeWord (drawMiso s.env).1 (spiXfer8 (lo w) s).2)).frame = s.frame := rfl
    simp [State.stepsLeft, hx, State.afterWord, hframe] at hw ⊢
    omega
  | lastWord w hx =>
    simp [State.stepsLeft, State.afterWord, hx]
    omega
  | endAborted hd =>
    simp [State.stepsLeft, hd]
    omega
  | nextFrame hd => simp [State.stepsLeft, hd]
  | lastFrame hd =>
    simp [State.stepsLeft, hd]
    omega
  | respond hd => simp [State.stepsLeft, hd]

/-- From everywhere in a request the bound is at most that of the whole request. -/
theorem stepsLeft_le {s : State} {T : Nat} (h : s.Inv) : s.stepsLeft T ≤ 3 + planBound T s.plan := by
  obtain ⟨-, -, -, ⟨-, hframes⟩, ⟨hfidx, -, -, hword, -⟩, -⟩ := h
  have later (hf : s.phase.framed = true) :
      2 + (T + 2) * s.frame.length + framesBound T (s.frames.drop (s.fidx + 1)) ≤ planBound T s.plan := by
    rw [hframes hf, planBound, ← framesBound_cons, ← drop_fidx (hfidx hf)]
    exact framesBound_drop_le T s.fidx s.frames
  have after (hw : s.phase.inWord = true) : T + s.afterWord T + 2 ≤ planBound T s.plan := by
    have := later (by simp [Phase.framed, Phase.selected, hw])
    have := wordsBound_succ T (hword hw)
    have := Nat.mul_le_mul_left (T + 2) (Nat.sub_le s.frame.length s.widx)
    unfold State.afterWord
    omega
  cases hp : s.phase with
  | assert =>
    have := later (by rw [hp]; rfl)
    have := drop_fidx (hfidx (by rw [hp]; rfl))
    simp only [State.stepsLeft, hp, this, framesBound_cons]
    omega
  | gate | xferHi | xferLo =>
    have := after (by rw [hp]; rfl)
    simp only [State.stepsLeft, hp]
    omega
  | deassert =>
    have := later (by rw [hp]; rfl)
    simp only [State.stepsLeft, hp]
    omega
  | idle | validate => simp [State.stepsLeft, hp]
  | codec | done =>
    simp only [State.stepsLeft, hp]
    omega

/-! Every request is answered. -/

/-- A run from `s` comes to `u` after `k` steps, and following it further starts there. -/
def Leads (k : Nat) (s u : State) : Prop := steps k s = .next u ∧ ∀ j, runFor (k + j) s = runFor j u

theorem Leads.step {k : Nat} {s t u : State} (hs : Machine.step s = .next t) (hover : s.runOver = false)
    (hn : s.env.resetN = []) (h : Leads k t u) : Leads (k + 1) s u := by
  obtain ⟨hsteps, hrun⟩ := h
  refine ⟨(steps_succ hs k).trans hsteps, fun j => ?_⟩
  rw [Nat.succ_add, runFor_step hover (by simp [State.resetAsserted, hn]) hs, hrun]

theorem Leads.refl (s : State) : Leads 0 s s := ⟨rfl, fun j => by rw [Nat.zero_add]⟩

theorem runOver_of_busy {s : State} (hp : s.phase ≠ .idle) : s.runOver = false := by simp [State.runOver, hp]

/-- `u` is an idle state after one more response than `s`, with the same parameters and requests still to come. -/
structure State.AnsweredOnce (u s : State) : Prop where
  inv : u.Inv
  idle : u.phase = .idle
  responses : ∃ r, u.responses = s.responses ++ [r]
  params : u.params = s.params
  requests : u.env.requests = s.env.requests
  resetN : u.env.resetN = []

theorem Move.phase_ne_idle {r : Recipe} {s t : State} (hm : Move r s t) (hp : s.phase ≠ .idle) (hd : s.phase ≠ .done) :
    t.phase ≠ .idle := by
  cases hm with
  | respond hp' => exact absurd hp' hd
  | gateWait => exact hp
  | refuse | gateTimeout => simp only [abort_phase]; split <;> simp
  | _ => simp

/-- A request in progress is answered within the bound: each move lowers it, and that of DONE answers. -/
theorem exists_answered {T : Nat} : ∀ (n : Nat) {s : State}, s.Inv → s.phase ≠ .idle → s.env.resetN = [] →
    s.params.readyTimeoutPolls = some T → s.stepsLeft T ≤ n → ∃ k u, k ≤ n ∧ Leads k s u ∧ u.AnsweredOnce s
  | 0, s, _, hp, _, _, hle => absurd hle (Nat.not_le.2 (stepsLeft_pos T hp))
  | n + 1, s, h, hp, hn, hT, hle => by
    obtain ⟨t, hrm⟩ := exists_runMove h
    have hinv : (floatMosi t).Inv := hrm.inv h
    cases hrm with
    | wait hi => exact absurd hi hp
    | take _ _ hi => exact absurd hi hp
    | latched r _ _ hr hm =>
      have hstep := step_of_move hn hp hr hm
      by_cases hd : s.phase = .done
      · obtain rfl := hm.eq_respond hd
        exact ⟨1, _, by omega, (Leads.refl _).step hstep (runOver_of_busy hp) hn, hinv, rfl, ⟨_, rfl⟩, rfl, rfl, hn⟩
      · have hlt : (floatMosi t).stepsLeft T < s.stepsLeft T := hm.stepsLeft_lt h hp hr hT
        obtain ⟨hresp, -⟩ := hm.sameAnswer hd
        obtain ⟨k, u, hk, hleads, hinv', hidle, hresp', hparams, hreq, hn'⟩ := exists_answered n hinv
          (hm.phase_ne_idle hp hd) (hm.resetN.trans hn) ((congrArg _ hm.params).trans hT) (by omega)
        refine ⟨k + 1, u, by omega, hleads.step hstep (runOver_of_busy hp) hn, hinv', hidle, ?_,
          hparams.trans hm.params, hreq.trans hm.requests, hn'⟩
        simpa [hresp] using hresp'

theorem csN_of_idle {s : State} (h : s.Inv) (hp : s.phase = .idle) : s.csN = true := by
  obtain ⟨-, ⟨hcs, -⟩, -⟩ := h
  rw [hcs, hp]
  rfl

/-- Settles O50: the request is answered within its bound (`exists_answered`), which is at most that of its frames. -/
theorem finiteTimeoutEndsEveryRequest : Obligations.FiniteTimeoutEndsEveryRequest := by
  unfold Obligations.FiniteTimeoutEndsEveryRequest
  intro s T h hp hn hT
  obtain ⟨k, u, hk, ⟨hsteps, -⟩, hanswered⟩ := exists_answered (T := T) _ h hp hn hT le_rfl
  exact ⟨k, u, hsteps, hanswered.idle, csN_of_idle hanswered.inv hanswered.idle, hanswered.responses,
    hk.trans (stepsLeft_le h)⟩

/-! Every run ends. -/

/-- From IDLE the run ends after one response for each request that HOST still presents. -/
theorem exists_ended {T : Nat} : ∀ (rs : List Request) {s : State}, s.Inv → s.phase = .idle → s.env.resetN = [] →
    s.params.readyTimeoutPolls = some T → s.env.requests = rs →
    ∃ k u, runFor k s = .ended u ∧ u.responses.length = s.responses.length + rs.length ∧ u.csN = true
  | [], s, h, hp, _, _, hq => ⟨0, s, runFor_over (runOver_iff.2 ⟨hp, hq⟩) 0, rfl, csN_of_idle h hp⟩
  | r :: rest, s, h, hp, hn, hT, hq => by
    obtain ⟨-, -, ⟨-, -, hfit⟩, -⟩ := id h
    rw [hq, List.all_cons, Bool.and_eq_true] at hfit
    have htake := step_of_stepMove (.free _ hn (.take r rest hp hq hfit.1))
    obtain ⟨k, u, -, hleads, ha⟩ := exists_answered (T := T) _ (s := floatMosi (latch r (withRequests rest s)))
      (inv_latch (s := s) h hp hq) (by simp) hn hT le_rfl
    obtain ⟨a, hresp⟩ := ha.responses
    obtain ⟨j, v, hend, hlen, hc⟩ := exists_ended rest ha.inv ha.idle ha.resetN ((congrArg _ ha.params).trans hT)
      ha.requests
    obtain ⟨-, hrun⟩ := hleads.step htake (by simp [State.runOver, hq]) hn
    refine ⟨k + 1 + j, v, (hrun j).trans hend, ?_, hc⟩
    simp only [hlen, hresp, List.length_append, List.length_cons]
    show s.responses.length + 1 + rest.length = _
    omega

/-- Settles O57: the launch state meets the invariant (`launchMeetsInvariant`), and from it the requests are answered one
after the other (`exists_ended`). -/
theorem finiteTimeoutEndsTheRun : Obligations.FiniteTimeoutEndsTheRun := by
  unfold Obligations.FiniteTimeoutEndsTheRun
  intro p env T hwf hfit hn hT
  obtain ⟨hinv, -⟩ := launchMeetsInvariant p env hwf hfit
  obtain ⟨k, u, hend, hlen, hc⟩ := exists_ended env.requests hinv rfl hn hT rfl
  exact ⟨k, u, hend, by simpa [State.launch, State.reset] using hlen, hc⟩

end Sys2Proof.Machine
end

section
/-! PROOF. Reset (70_reset_and_hazards.md R163 to R165) and the runs it cuts or launches (R182 to R185): what a reset step
leaves, when a run without a reset ends, and how one with a request in progress goes on. -/

namespace Sys2Proof.Machine

/-! The reset step. -/

/-- Deasserting CS_N is an event exactly if it was asserted (00_scope.md R17). -/
theorem csEvents_to_high (v : Bool) : csEvents v true = if v then [] else [.csh] := by cases v <;> rfl

/-- STAT after a reset: BUSY and CODE are 0 (10_state.md R36, R49). -/
theorem resetStep_stat (s : State) : (resetStep s).stat = 0x0000#16 := by
  show State.reset.stat = 0x0000#16
  decide

/-- Settles O43: the step is `resetStep`, whose field lemmas give each register. -/
theorem resetTakesEffectAtOnce : Obligations.ResetTakesEffectAtOnce := by
  unfold Obligations.ResetTakesEffectAtOnce
  intro s rest hn
  refine ⟨_, step_of_resetN_low hn, ?_⟩
  simp [resetStep_stat, csEvents_to_high]

/-- Settles O44: the reset leaves IDLE with CS_N = 1 and the requests as they were, and from there the step takes the
first of them. -/
theorem resetReleaseAcceptsNext : Obligations.ResetReleaseAcceptsNext := by
  unfold Obligations.ResetReleaseAcceptsNext
  intro s r rest hn hq hf
  have haccept := step_of_stepMove (s := resetStep (withResetN [] s)) (.free _ rfl (.take r rest rfl hq hf))
  exact ⟨_, _, step_of_resetN_low hn, haccept, rfl, rfl, rfl, rfl⟩

/-- Settles O58: what `resetStep` keeps beside the parameters and the environment is TRACE and the responses, which
`nextRun` empties. -/
theorem nextRunStartsAtLaunch : Obligations.NextRunStartsAtLaunch := by
  unfold Obligations.NextRunStartsAtLaunch
  intro s rest program hn
  exact ⟨_, step_of_resetN_low hn, Config.freeMosi s.env.draws, Config.freeRxhi s.env.draws, s.env.draws + 1, rfl⟩

/-! Steps without a reset. -/

/-- No coming level of RESET_N is 0. -/
def State.NoReset (s : State) : Prop := ∀ level ∈ s.env.resetN, level = true

theorem State.NoReset.head_ne {s : State} (h : s.NoReset) : s.env.resetN.head? ≠ some false :=
  fun hn => Bool.noConfusion (h false (List.mem_of_mem_head? hn))

theorem State.NoReset.resetAsserted {s : State} (h : s.NoReset) : s.resetAsserted = false :=
  resetAsserted_eq_false.2 h.head_ne

theorem RunMove.resetN {s t : State} (hm : RunMove s t) : t.env.resetN = s.env.resetN := by
  cases hm with
  | latched r _ _ _ hm => exact hm.resetN
  | _ => rfl

/-- A step uses up one level of RESET_N. -/
theorem StepMove.resetN {s t : State} (hm : StepMove s t) : t.env.resetN = s.env.resetN.tail := by
  cases hm with
  | free u hn hm => simpa [hn] using hm.resetN
  | released rest u hn hm => simpa [hn] using hm.resetN
  | reset rest hn => simp [hn]

theorem State.NoReset.step {s t : State} (h : s.NoReset) (hs : Machine.step s = .next t) : t.NoReset := by
  intro level hl
  rw [(step_move hs).resetN] at hl
  exact h level (List.mem_of_mem_tail hl)

/-! When a run without a reset ends. -/

/-- `t` is the first state over on the way from `s`, `j` steps on. -/
def EndsAfter (j : Nat) (s t : State) : Prop :=
  steps j s = .next t ∧ t.runOver = true ∧ ∀ i u, i < j → steps i s = .next u → u.runOver = false

theorem steps_succ_eq_next {k : Nat} {s t : State} :
    steps (k + 1) s = .next t ↔ ∃ u, step s = .next u ∧ steps k u = .next t := by
  cases hs : step s <;> simp [steps, hs]

theorem endsAfter_zero_iff {s t : State} : EndsAfter 0 s t ↔ s.runOver = true ∧ s = t := by
  constructor
  · rintro ⟨hst, ht, -⟩
    cases hst
    exact ⟨ht, rfl⟩
  · rintro ⟨ho, rfl⟩
    exact ⟨rfl, ho, fun i u hi => absurd hi (Nat.not_lt_zero i)⟩

theorem endsAfter_succ_iff {j : Nat} {s t : State} :
    EndsAfter (j + 1) s t ↔ s.runOver = false ∧ ∃ u, step s = .next u ∧ EndsAfter j u t := by
  constructor
  · rintro ⟨hst, ht, hfirst⟩
    obtain ⟨u, hu, hut⟩ := steps_succ_eq_next.1 hst
    exact ⟨hfirst 0 s (Nat.succ_pos j) rfl, u, hu, hut, ht,
      fun i v hi hv => hfirst (i + 1) v (Nat.succ_lt_succ hi) ((steps_succ hu i).trans hv)⟩
  · rintro ⟨ho, u, hu, hut, ht, hfirst⟩
    refine ⟨(steps_succ hu j).trans hut, ht, fun i v hi hv => ?_⟩
    cases i with
    | zero => cases hv; exact ho
    | succ i => exact hfirst i v (Nat.lt_of_succ_lt_succ hi) ((steps_succ hu i).symm.trans hv)

/-- Without a reset a run followed for `k + 1` steps has ended if it was over, or if it has ended `k` steps after its
first. -/
theorem runFor_succ_eq_ended_iff {k : Nat} {s t : State} (hn : s.NoReset) :
    runFor (k + 1) s = .ended t ↔
      (s.runOver = true ∧ s = t) ∨ (s.runOver = false ∧ ∃ u, step s = .next u ∧ runFor k u = .ended t) := by
  cases ho : s.runOver with
  | true => simp [runFor_over ho]
  | false => cases hs : step s <;> simp [runFor, ho, hs, hn.resetAsserted]

/-- Without a reset a run followed for `k` steps has ended exactly in the first state over within them. -/
theorem runFor_eq_ended_iff {k : Nat} {s t : State} (hn : s.NoReset) :
    runFor k s = .ended t ↔ ∃ j, j ≤ k ∧ EndsAfter j s t := by
  induction k generalizing s with
  | zero =>
    simp only [Nat.le_zero, exists_eq_left, endsAfter_zero_iff]
    cases ho : s.runOver <;> simp [runFor, ho]
  | succ k ih =>
    rw [runFor_succ_eq_ended_iff hn]
    constructor
    · rintro (h | ⟨ho, u, hu, hend⟩)
      · exact ⟨0, Nat.zero_le _, endsAfter_zero_iff.2 h⟩
      · obtain ⟨j, hj, h⟩ := (ih (hn.step hu)).1 hend
        exact ⟨j + 1, Nat.succ_le_succ hj, endsAfter_succ_iff.2 ⟨ho, u, hu, h⟩⟩
    · rintro ⟨j, hj, h⟩
      cases j with
      | zero => exact .inl (endsAfter_zero_iff.1 h)
      | succ j =>
        obtain ⟨ho, u, hu, h⟩ := endsAfter_succ_iff.1 h
        exact .inr ⟨ho, u, hu, (ih (hn.step hu)).2 ⟨j, Nat.le_of_succ_le_succ hj, h⟩⟩

/-! The responses to come. -/

/-- How many requests are not yet answered: those still presented, and the one in progress. -/
def State.unanswered (s : State) : Nat := s.env.requests.length + if s.phase = .idle then 0 else 1

/-- A move answers a request or leaves it to be answered. -/
theorem RunMove.responses_add_unanswered {s t : State} (hm : RunMove s t) :
    t.responses.length + t.unanswered = s.responses.length + s.unanswered := by
  cases hm with
  | wait => rfl
  | take r rest hp hq => simp [State.unanswered, hp, hq]
  | latched r _ hp hr hm =>
    by_cases hd : s.phase = .done
    · obtain rfl := hm.eq_respond hd
      simp [State.unanswered, hp]
      omega
    · obtain ⟨hresp, -⟩ := hm.sameAnswer hd
      simp [State.unanswered, hp, hm.phase_ne_idle hp hd, hresp, hm.requests]

theorem steps_responses_add_unanswered {k : Nat} {s t : State} (hn : s.NoReset) (h : steps k s = .next t) :
    t.responses.length + t.unanswered = s.responses.length + s.unanswered := by
  induction k generalizing s with
  | zero => cases h; rfl
  | succ k ih =>
    obtain ⟨u, hu, hut⟩ := steps_succ_eq_next.1 h
    obtain ⟨rest, v, hm, rfl⟩ := (step_move hu).exists_runMove hn.head_ne
    exact (ih (hn.step hu) hut).trans hm.responses_add_unanswered

/-- On the way of a run without a reset, over means IDLE with one response for each request of the program. -/
theorem runOver_iff_of_launch {p : Params} {env : Env} {k : Nat} {s : State} (hn : (State.launch p env).NoReset)
    (h : steps k (State.launch p env) = .next s) :
    s.runOver = true ↔ s.phase = .idle ∧ s.responses.length = env.requests.length := by
  have hcount : s.responses.length + s.unanswered = 0 + (env.requests.length + 0) :=
    steps_responses_add_unanswered hn h
  rw [runOver_iff, ← List.length_eq_zero_iff]
  refine and_congr_right fun hp => ?_
  rw [State.unanswered, if_pos hp] at hcount
  omega

/-- Settles O55: a run without a reset ends in the first state over (`runFor_eq_ended_iff`), and over means answered
(`runOver_iff_of_launch`). -/
theorem runEndsAfterLastResponse : Obligations.RunEndsAfterLastResponse := by
  unfold Obligations.RunEndsAfterLastResponse
  intro p env _ _ hhigh
  have hn : (State.launch p env).NoReset := hhigh
  refine ⟨rfl, rfl, fun k s => ⟨(runFor_eq_ended_iff hn).trans ?_, fun h => by rw [h]; rfl⟩⟩
  refine exists_congr fun j => and_congr_right fun _ => and_congr_right fun hs => ?_
  rw [runOver_iff_of_launch hn hs, and_assoc]
  refine and_congr_right fun _ => and_congr_right fun _ => forall₄_congr fun i u _ hu => ?_
  rw [← runOver_iff_of_launch hn hu, Bool.not_eq_true]

/-! A run with a request in progress. -/

/-- Without a reset a run that is nowhere over on its way goes on. -/
theorem runFor_eq_going {k : Nat} {s t : State} (hn : s.NoReset) (h : steps k s = .next t)
    (hway : ∀ i u, i ≤ k → steps i s = .next u → u.runOver = false) : runFor k s = .going t := by
  induction k generalizing s with
  | zero =>
    cases h
    simp [runFor, hway 0 t le_rfl rfl]
  | succ k ih =>
    obtain ⟨u, hu, hut⟩ := steps_succ_eq_next.1 h
    rw [runFor_step (hway 0 s (Nat.zero_le _) rfl) hn.resetAsserted hu]
    exact ih (hn.step hu) hut fun i v hi hv => hway (i + 1) v (Nat.succ_le_succ hi) ((steps_succ hu i).trans hv)

/-- After any number of failed samples a gate without a timeout is still busy (`gateWithoutTimeoutHangs`), so the run
goes on. -/
theorem runFor_gate_going {k : Nat} {s : State} (h : s.Inv) (hp : s.phase = .gate)
    (hT : s.params.readyTimeoutPolls = none) (hn : s.env.resetN = [])
    (hh : List.replicate k false <+: s.env.hrdy) : ∃ t, runFor k s = .going t ∧ t.busy = true := by
  obtain ⟨t, ht, -, -, hbusy, -⟩ := gateWithoutTimeoutHangs k s h hp hT hn hh
  refine ⟨t, runFor_eq_going (by simp [State.NoReset, hn]) ht fun i u hi hu => ?_, hbusy⟩
  have hprefix : List.replicate i false <+: List.replicate k false :=
    ⟨List.replicate (k - i) false, by rw [List.replicate_append_replicate, Nat.add_sub_cancel' hi]⟩
  obtain ⟨v, hv, hgate, -⟩ := gateWithoutTimeoutHangs i s h hp hT hn (hprefix.trans hh)
  obtain rfl : v = u := by simpa [hv] using hu
  exact runOver_of_busy (by simp [hgate])

/-- A reset cuts a run that is going, however far it is followed. -/
theorem runFor_reset_of_going {j k : Nat} {s t : State} {rest : List Bool} (h : runFor j s = .going t)
    (hn : t.env.resetN = false :: rest) : ∃ u, step t = .next u ∧ runFor (j + k + 1) s = .cut u := by
  obtain ⟨hover, -, hrun⟩ := runFor_going h
  have hs := step_of_resetN_low hn
  exact ⟨_, hs, (hrun (k + 1)).trans (runFor_reset hover (by simp [State.resetAsserted, hn]) hs k)⟩

/-- Settles O56: a run ends where it is over (`runFor_ended`), a gate without a timeout keeps it going
(`runFor_gate_going`), and a reset cuts it (`runFor_reset_of_going`). -/
theorem runInProgressIsNotOver : Obligations.RunInProgressIsNotOver := by
  unfold Obligations.RunInProgressIsNotOver
  refine ⟨fun k s t h => ?_, fun k s h hp hT hn hh => ?_, fun j k s t rest h hn => ?_⟩
  · obtain ⟨hp, hq⟩ := runOver_iff.1 (runFor_ended h)
    exact ⟨by simp [State.busy, hp], hq⟩
  · obtain ⟨t, hgoing, hbusy⟩ := runFor_gate_going h hp hT hn hh
    exact ⟨t, hgoing, hbusy, by rw [hgoing]; rfl, by rw [hgoing]; rfl⟩
  · obtain ⟨u, hu, hcut⟩ := runFor_reset_of_going (k := k) h hn
    exact ⟨u, hu, hcut, by rw [hcut]; rfl, by rw [hcut]; rfl⟩

end Sys2Proof.Machine
end
